-- ==== Sys2Proof/Word.lean ====
section
/-! DEFINITION. The value types of the machine: bytes, words, register numbers (00_scope.md R3, section 6). -/

namespace Sys2Proof

/-- Eight bits: the unit of memory (20_memory.md R30). -/
abbrev Byte := BitVec 8

/-- Thirty-two bits: a register, an address, an instruction (00_scope.md R3). -/
abbrev Word := BitVec 32

/-- Sixty-four bits: the value of a double register (10_state.md R17). -/
abbrev DWord := BitVec 64

/-- What a five-bit register field holds: the number of a register, or the coding of a double
register (10_state.md R10, R16, R18). -/
abbrev RegNum := Fin 32

/-- The sixteen-bit immediate field of format I (30_encoding.md R54). -/
abbrev Imm16 := BitVec 16

/-- The twenty-six-bit field of format J: a jump offset or a trap number (30_encoding.md R55, R58). -/
abbrev Dest26 := BitVec 26

end Sys2Proof
end

