-- ==== Sys2Proof/Machine/Flags.lean ====
section
/-! DEFINITION. Truth values: the 0-or-1 results of the set-on-compare instructions and the predicates of
the floating-point comparisons. FPSR is the machine's only flag (10_state.md R19). -/

namespace Sys2Proof.Machine

/-- `bool(c)`: the 32-bit value 1 or 0 (40_int_register.md R119). -/
def boolWord (c : Bool) : Word := if c then 1 else 0

/-- The outcome of a floating-point comparison (44_fp_compare.md R173). -/
inductive FpOrder where
  | lt
  | eq
  | gt
  | unordered
deriving DecidableEq, Repr

/-- EQ holds on `eq` (44_fp_compare.md R173). -/
def FpOrder.holdsEq : FpOrder → Bool
  | .eq => true
  | .lt | .gt | .unordered => false

/-- NE holds on `lt`, `gt` and `unordered` (44_fp_compare.md R173). -/
def FpOrder.holdsNe : FpOrder → Bool
  | .eq => false
  | .lt | .gt | .unordered => true

/-- LT holds on `lt` (44_fp_compare.md R173). -/
def FpOrder.holdsLt : FpOrder → Bool
  | .lt => true
  | .eq | .gt | .unordered => false

/-- GT holds on `gt` (44_fp_compare.md R173). -/
def FpOrder.holdsGt : FpOrder → Bool
  | .gt => true
  | .lt | .eq | .unordered => false

/-- LE holds on `lt` and `eq` (44_fp_compare.md R173). -/
def FpOrder.holdsLe : FpOrder → Bool
  | .lt | .eq => true
  | .gt | .unordered => false

/-- GE holds on `gt` and `eq` (44_fp_compare.md R173). -/
def FpOrder.holdsGe : FpOrder → Bool
  | .gt | .eq => true
  | .lt | .unordered => false

end Sys2Proof.Machine
end

