-- ==== Sys2Proof/Machine/IntArith.lean ====
section
/-! DEFINITION. Integer results: each is computed on the integers the operands denote and cut to 32 bits
(40_int_register.md R117), once, for the register and the immediate forms. -/

namespace Sys2Proof.Machine

/-- `trunc_32` of an integer (00_scope.md section 6.3). -/
def trunc32 (k : Int) : Word := BitVec.ofInt 32 k

/-- A shift amount: the five low bits (40_int_register.md R118). -/
def shiftAmount (c : Word) : Nat := (c.extractLsb' 0 5).toNat

/-- Left shift by `n` (40_int_register.md R101). -/
def shiftLeft (a : Word) (n : Nat) : Word := trunc32 (a.toNat * 2 ^ n)

/-- Logical right shift by `n` (40_int_register.md R102). -/
def shiftRightLogical (a : Word) (n : Nat) : Word := trunc32 (a.toNat / 2 ^ n : Nat)

/-- Arithmetic right shift by `n`: the quotient is rounded toward minus infinity (40_int_register.md R103). -/
def shiftRightArith (a : Word) (n : Nat) : Word := trunc32 (Int.fdiv a.toInt (2 ^ n))

/-- Sum (40_int_register.md R104). -/
def addWord (a b : Word) : Word := trunc32 (a.toNat + b.toNat)

/-- Difference (40_int_register.md R106). -/
def subWord (a b : Word) : Word := trunc32 (a.toNat - b.toNat)

/-- Bitwise and (40_int_register.md R108). -/
def andWord (a b : Word) : Word := a &&& b

/-- Bitwise or (40_int_register.md R109). -/
def orWord (a b : Word) : Word := a ||| b

/-- Bitwise exclusive or (40_int_register.md R110). -/
def xorWord (a b : Word) : Word := a ^^^ b

/-- Equal (40_int_register.md R111). -/
def setEq (a b : Word) : Word := boolWord (decide (a = b))

/-- Not equal (40_int_register.md R112). -/
def setNe (a b : Word) : Word := boolWord (decide (a ≠ b))

/-- Signed less than (40_int_register.md R113, R119). -/
def setLt (a b : Word) : Word := boolWord (decide (a.toInt < b.toInt))

/-- Signed greater than (40_int_register.md R114, R119). -/
def setGt (a b : Word) : Word := boolWord (decide (a.toInt > b.toInt))

/-- Signed less or equal (40_int_register.md R115, R119). -/
def setLe (a b : Word) : Word := boolWord (decide (a.toInt ≤ b.toInt))

/-- Signed greater or equal (40_int_register.md R116, R119). -/
def setGe (a b : Word) : Word := boolWord (decide (a.toInt ≥ b.toInt))

/-- Low 32 bits of the signed product (43_int_muldiv.md R151). -/
def mulSigned (a b : Word) : Word := trunc32 (a.toInt * b.toInt)

/-- Low 32 bits of the unsigned product (43_int_muldiv.md R153). -/
def mulUnsigned (a b : Word) : Word := trunc32 (a.toNat * b.toNat)

/-- Signed quotient, rounded toward zero, for a divisor that is not zero (43_int_muldiv.md R152). -/
def divSigned (a b : Word) : Word := trunc32 (Int.tdiv a.toInt b.toInt)

/-- Unsigned quotient, rounded down, for a divisor that is not zero (43_int_muldiv.md R154). -/
def divUnsigned (a b : Word) : Word := trunc32 (a.toNat / b.toNat : Nat)

end Sys2Proof.Machine
end

