-- ==== Sys2Proof/Machine/Fp.lean ====
section
/-! DEFINITION. The floating-point numerics: the default of the parameter `FP` (42_fp_arith_convert.md
R130, R131, R140; 44_fp_compare.md R173). Every finite value of a format is a whole number of units of its
smallest subnormal, so the exact result of each operation is a fraction of whole numbers of units, and it is
rounded once, to nearest even. -/

namespace Sys2Proof.Machine

/-- A binary interchange format: the widths of its exponent and fraction fields (42_fp_arith_convert.md
R130). -/
structure FpFormat where
  ebits : Nat
  fbits : Nat
deriving DecidableEq, Repr

/-- binary32 (42_fp_arith_convert.md R130). -/
def binary32 : FpFormat := ⟨8, 23⟩

/-- binary64 (42_fp_arith_convert.md R130). -/
def binary64 : FpFormat := ⟨11, 52⟩

/-- The pattern, less its sign bit, of infinity: exponent all ones, fraction zero. -/
def FpFormat.infPattern (F : FpFormat) : Nat := (2 ^ F.ebits - 1) * 2 ^ F.fbits

/-- The place of the sign bit, as a power of two. -/
def FpFormat.signUnit (F : FpFormat) : Nat := 2 ^ (F.ebits + F.fbits)

/-- One over the smallest subnormal: the number 1 is this many units, `2^(bias - 1 + fbits)` with
`bias = 2^(ebits - 1) - 1`. -/
def FpFormat.one (F : FpFormat) : Nat := 2 ^ (2 ^ (F.ebits - 1) - 2 + F.fbits)

/-- What a pattern denotes (42_fp_arith_convert.md R130): `finite neg m` is `m` units, less than zero (or
minus zero) when `neg`. -/
inductive FpDatum where
  | nan
  | inf (neg : Bool)
  | finite (neg : Bool) (units : Nat)
deriving DecidableEq, Repr

/-- Read a pattern, given as a number (42_fp_arith_convert.md R130). -/
def FpFormat.unpack (F : FpFormat) (v : Nat) : FpDatum :=
  let frac := v % 2 ^ F.fbits
  let expo := v / 2 ^ F.fbits % 2 ^ F.ebits
  let neg := decide (v / F.signUnit % 2 = 1)
  if expo = 2 ^ F.ebits - 1 then
    if frac = 0 then .inf neg else .nan
  else if expo = 0 then .finite neg frac
  else .finite neg ((2 ^ F.fbits + frac) * 2 ^ (expo - 1))

/-- The signed number of units of a finite value. -/
def signedUnits (neg : Bool) (units : Nat) : Int := if neg then -(units : Int) else units

/-- `num / den` to the nearest whole number, ties to even. -/
def roundHalfEven (num den : Nat) : Nat :=
  let q := num / den
  let r := num % den
  if 2 * r < den then q
  else if den < 2 * r then q + 1
  else if q % 2 = 0 then q
  else q + 1

/-- The pattern, less its sign bit, of `num / den` units rounded to nearest even: significands of
`fbits + 1` bits, subnormals below, infinity above (42_fp_arith_convert.md R131 (c)). -/
def FpFormat.roundMagnitude (F : FpFormat) (num den : Nat) : Nat :=
  let k := Nat.log2 (num / den) - F.fbits
  min (k * 2 ^ F.fbits + roundHalfEven num (den * 2 ^ k)) F.infPattern

/-- A floating-point result: a pattern the rules fix, or a NaN whose sign, quiet bit and payload are any
value (42_fp_arith_convert.md R131 (a)). -/
inductive FpResult where
  | pattern (v : Nat)
  | anyNan
deriving DecidableEq, Repr

/-- A pattern from its sign and the rest. -/
def FpFormat.signed (F : FpFormat) (neg : Bool) (magnitude : Nat) : FpResult :=
  .pattern ((if neg then F.signUnit else 0) + magnitude)

/-- The exact value `num / den` units with a sign, rounded (42_fp_arith_convert.md R131). -/
def FpFormat.round (F : FpFormat) (neg : Bool) (num den : Nat) : FpResult :=
  F.signed neg (F.roundMagnitude num den)

/-- The infinity of a sign. -/
def FpFormat.infinity (F : FpFormat) (neg : Bool) : FpResult := F.signed neg F.infPattern

/-- The negative of a value; a NaN stays one. -/
def FpDatum.negate : FpDatum → FpDatum
  | .nan => .nan
  | .inf neg => .inf (!neg)
  | .finite neg m => .finite (!neg) m

/-- Sum. An exact zero sum is +0 unless both operands are negative zeros (42_fp_arith_convert.md R132,
R131 (a)). -/
def FpFormat.add (F : FpFormat) : FpDatum → FpDatum → FpResult
  | .nan, _ => .anyNan
  | .inf _, .nan => .anyNan
  | .finite _ _, .nan => .anyNan
  | .inf x, .inf y => if x = y then F.infinity x else .anyNan
  | .inf x, .finite _ _ => F.infinity x
  | .finite _ _, .inf y => F.infinity y
  | .finite x m, .finite y n =>
    let t := signedUnits x m + signedUnits y n
    if t = 0 then F.signed (x && y) 0 else F.round (decide (t < 0)) t.natAbs 1

/-- Difference: the sum with the negative (42_fp_arith_convert.md R133). -/
def FpFormat.sub (F : FpFormat) (a b : FpDatum) : FpResult := F.add a b.negate

/-- Product: the sign is the exclusive-or of the signs; zero times infinity is a NaN
(42_fp_arith_convert.md R134, R131 (a)). -/
def FpFormat.mul (F : FpFormat) : FpDatum → FpDatum → FpResult
  | .nan, _ => .anyNan
  | .inf _, .nan => .anyNan
  | .finite _ _, .nan => .anyNan
  | .inf x, .inf y => F.infinity (x != y)
  | .inf x, .finite y n => if n = 0 then .anyNan else F.infinity (x != y)
  | .finite x m, .inf y => if m = 0 then .anyNan else F.infinity (x != y)
  | .finite x m, .finite y n => F.round (x != y) (m * n) F.one

/-- Quotient: zero over zero and infinity over infinity are NaNs, a finite number that is not zero over
a zero is an infinity (42_fp_arith_convert.md R135, R131 (a), (b)). -/
def FpFormat.div (F : FpFormat) : FpDatum → FpDatum → FpResult
  | .nan, _ => .anyNan
  | .inf _, .nan => .anyNan
  | .finite _ _, .nan => .anyNan
  | .inf _, .inf _ => .anyNan
  | .inf x, .finite y _ => F.infinity (x != y)
  | .finite x _, .inf y => F.signed (x != y) 0
  | .finite x m, .finite y n =>
    if n = 0 then
      if m = 0 then .anyNan else F.infinity (x != y)
    else F.round (x != y) (m * F.one) n

/-- Comparison by value: the zeros are equal, a NaN is unordered with everything (44_fp_compare.md R173). -/
def FpDatum.compare : FpDatum → FpDatum → FpOrder
  | .nan, _ => .unordered
  | .inf _, .nan => .unordered
  | .finite _ _, .nan => .unordered
  | .inf x, .inf y => if x = y then .eq else if x then .lt else .gt
  | .inf x, .finite _ _ => if x then .lt else .gt
  | .finite _ _, .inf y => if y then .gt else .lt
  | .finite x m, .finite y n =>
    if signedUnits x m < signedUnits y n then .lt
    else if signedUnits x m = signedUnits y n then .eq
    else .gt

/-- Conversion from format `G` to format `F`: exact where `F` can hold the value, else rounded
(42_fp_arith_convert.md R140, R141, R143). -/
def FpFormat.convert (F G : FpFormat) : FpDatum → FpResult
  | .nan => .anyNan
  | .inf neg => F.infinity neg
  | .finite neg m => F.round neg (m * F.one) G.one

/-- Conversion of a signed integer (42_fp_arith_convert.md R140, R145, R146). -/
def FpFormat.ofInt (F : FpFormat) (k : Int) : FpResult := F.round (decide (k < 0)) (k.natAbs * F.one) 1

/-- Conversion to a signed 32-bit integer: truncated toward zero; `none` where the result is any value
(42_fp_arith_convert.md R140, R142, R144). -/
def FpFormat.toInt32 (F : FpFormat) : FpDatum → Option Word
  | .nan => none
  | .inf _ => none
  | .finite neg m =>
    let t := signedUnits neg (m / F.one)
    if -2147483648 ≤ t ∧ t ≤ 2147483647 then some (BitVec.ofInt 32 t) else none

/-! ### The record `FP` (42_fp_arith_convert.md R131) -/

/-- What a single register denotes. -/
def single (v : Word) : FpDatum := binary32.unpack v.toNat

/-- What a double register denotes. -/
def double (v : DWord) : FpDatum := binary64.unpack v.toNat

/-- `FP.add32`. -/
def fpAdd32 (a b : Word) : FpResult := binary32.add (single a) (single b)
/-- `FP.sub32`. -/
def fpSub32 (a b : Word) : FpResult := binary32.sub (single a) (single b)
/-- `FP.mul32`. -/
def fpMul32 (a b : Word) : FpResult := binary32.mul (single a) (single b)
/-- `FP.div32`. -/
def fpDiv32 (a b : Word) : FpResult := binary32.div (single a) (single b)
/-- `FP.add64`. -/
def fpAdd64 (a b : DWord) : FpResult := binary64.add (double a) (double b)
/-- `FP.sub64`. -/
def fpSub64 (a b : DWord) : FpResult := binary64.sub (double a) (double b)
/-- `FP.mul64`. -/
def fpMul64 (a b : DWord) : FpResult := binary64.mul (double a) (double b)
/-- `FP.div64`. -/
def fpDiv64 (a b : DWord) : FpResult := binary64.div (double a) (double b)
/-- `FP.f2d`. -/
def fpF2D (a : Word) : FpResult := binary64.convert binary32 (single a)
/-- `FP.d2f`. -/
def fpD2F (a : DWord) : FpResult := binary32.convert binary64 (double a)
/-- `FP.f2i`; `none` is any value. -/
def fpF2I (a : Word) : Option Word := binary32.toInt32 (single a)
/-- `FP.d2i`; `none` is any value. -/
def fpD2I (a : DWord) : Option Word := binary64.toInt32 (double a)
/-- `FP.i2f`. -/
def fpI2F (a : Word) : FpResult := binary32.ofInt a.toInt
/-- `FP.i2d`. -/
def fpI2D (a : Word) : FpResult := binary64.ofInt a.toInt
/-- `FP.cmp32`. -/
def fpCmp32 (a b : Word) : FpOrder := (single a).compare (single b)
/-- `FP.cmp64`. -/
def fpCmp64 (a b : DWord) : FpOrder := (double a).compare (double b)

end Sys2Proof.Machine
end

