-- ==== Sys2Proof/Config.lean ====
section
/-! DEFINITION. The launch parameters of 00_scope.md R4 with their defaults, and the values the spec
leaves free. -/

namespace Sys2Proof

/-- `LINK_DELTA`: what JAL and JALR add to the advanced pc (45_control_transfer.md R180). -/
inductive LinkDelta where
  | zero
  | four
deriving DecidableEq, Repr

/-- `DREG_FIELD`: how a five-bit field names a double register (10_state.md R18). -/
inductive DregField where
  | evenFIndex
  | dIndex
deriving DecidableEq, Repr

/-- The vector function `vec` of vectored trap mode, written out: the listed trap numbers (the first
entry of a number counts), and the address of every other number. Every function from trap numbers to
addresses is some table (log entry 6). -/
structure VectorTable where
  entries : List (Dest26 × Word)
  otherwise : Word
deriving DecidableEq, Repr

/-- `TRAP_MODE`: where TRAP sends control (60_exceptions.md R300). -/
inductive TrapMode where
  | environment
  | vectored (vec : VectorTable)
deriving DecidableEq, Repr

/-- One thing the host may write at launch, or TrapService inside a TRAP (70_reset_and_hazards.md R352,
60_exceptions.md R301). -/
inductive HostWrite where
  | intReg (i : RegNum) (v : Word)
  | fpReg (i : RegNum) (v : Word)
  | fpsr (b : Bool)
  | special (v : Word)
  | byte (a : Word) (b : Byte)
deriving DecidableEq, Repr

/-- An answer of TrapService: `Halt`, or `Resume` with the state handed over changed by these writes, in
order (60_exceptions.md R301). -/
inductive ServiceAnswer where
  | halt
  | resume (writes : List HostWrite)
deriving DecidableEq, Repr, Inhabited

/-- `TrapService`, the launch parameter (00_scope.md R4, 60_exceptions.md R301, log entry 7). -/
inductive TrapService where
  /-- The answers to the traps of the run in order, and the answer to every trap after those: the default
  service is `script [] .halt`, one that resumes for ever is `script [] (.resume [])`. -/
  | script (first : List ServiceAnswer) (always : ServiceAnswer)
  /-- Any service: each answer is a free value. -/
  | any
deriving DecidableEq, Repr

/-- What a read does of a register that nothing has written since reset (10_state.md R14, 92_eei_decisions.md
D7; log entry 2). -/
inductive UnwrittenRule where
  /-- 10_state.md R14 to the letter: the run ends as `faulted(UnwrittenRead, A)`. -/
  | faults
  /-- It gives the value named for reset: `Config.resetWord`, `Config.resetFpsr` (log entry 1). -/
  | namedValue
  /-- It gives a free value: the initial register file is an arbitrary one. -/
  | anyValue
deriving DecidableEq, Repr

/-- The parameters a launch fixes and no step changes (00_scope.md R4, 10_state.md R28). -/
structure Params where
  /-- `MEM_BASE`, the lowest address backed by memory. -/
  memBase : Word
  /-- `MEM_SIZE`, a number of bytes. -/
  memSize : Nat
  /-- `RESET_PC`. -/
  resetPc : Word
  /-- `LINK_DELTA`. -/
  linkDelta : LinkDelta
  /-- `DREG_FIELD`. -/
  dregField : DregField
  /-- `TRAP_MODE`. -/
  trapMode : TrapMode
  /-- `TrapService`. -/
  trapService : TrapService
  /-- `ALLOW_SMC`. -/
  allowSmc : Bool
  /-- What a read of an unwritten register does (the model's own, log entry 2). -/
  unwritten : UnwrittenRule
deriving DecidableEq, Repr

/-- The constraints on the launch parameters: `MEM_BASE` and `MEM_SIZE` multiples of 8, `MEM_BASE + MEM_SIZE`
at most 2^32 (00_scope.md R4), `RESET_PC` a multiple of 4 with its word inside memory
(70_reset_and_hazards.md R351). -/
abbrev Params.Ok (p : Params) : Prop :=
  p.memBase.toNat % 8 = 0 ∧ p.memSize % 8 = 0 ∧ p.memBase.toNat + p.memSize ≤ 4294967296 ∧
    p.resetPc.toNat % 4 = 0 ∧ p.memBase.toNat ≤ p.resetPc.toNat ∧
    p.resetPc.toNat + 4 ≤ p.memBase.toNat + p.memSize

/-- The defaults of 00_scope.md R4. `MEM_SIZE` has no default: the whole address space is taken
(DESIGN CHOICE, log entry 3). -/
def Config.defaults : Params where
  memBase := 0
  memSize := 4294967296
  resetPc := 0
  linkDelta := .four
  dregField := .evenFIndex
  trapMode := .environment
  trapService := .script [] .halt
  allowSmc := false
  unwritten := .namedValue

/-- What a byte of memory reads as that nothing has listed (DESIGN CHOICE, log entry 4). -/
def Config.launchByte : Byte := 0

/-- What every register holds after reset for which 10_state.md R27 gives no value (DESIGN CHOICE,
log entry 1). -/
def Config.resetWord : Word := 0

/-- What fpsr holds after reset (DESIGN CHOICE, log entry 1). -/
def Config.resetFpsr : Bool := false

/-- What `R1` to `R31` hold after reset but under `namedValue`: free values, log entry 2. -/
opaque Config.launchR : RegNum → Word

/-- What `F0` to `F31` hold after reset but under `namedValue`: free values, log entry 2. -/
opaque Config.launchF : RegNum → Word

/-- What fpsr holds after reset but under `namedValue`: a free value, log entry 2. -/
opaque Config.launchFpsr : Bool

/-- What special holds after reset but under `namedValue`: a free value, log entry 2. -/
opaque Config.launchSpecial : Word

/-- The value after reset: the named one or the free one (log entries 1 and 2). -/
def UnwrittenRule.pick {α : Type} (u : UnwrittenRule) (named any : α) : α :=
  match u with
  | .namedValue => named
  | .faults | .anyValue => any

/-- The k-th free draw of a NaN of binary32: its sign, and its fraction less one, so that the fraction
is never zero (42_fp_arith_convert.md R131 (a)). A free value, log entry 8. -/
opaque Config.freeNan32 : Nat → Bool × Fin 8388607

/-- The k-th free draw of a NaN of binary64, in the same form (42_fp_arith_convert.md R131 (a)).
A free value, log entry 8. -/
opaque Config.freeNan64 : Nat → Bool × Fin 4503599627370495

/-- The k-th free draw of a 32-bit integer: the result of a conversion to integer that no integer
represents (42_fp_arith_convert.md R140). A free value, log entry 9. -/
opaque Config.freeInt : Nat → Word

end Sys2Proof
end

