-- ==== Sys2Proof/Syntax.lean ====
section
/-! DEFINITION. The instructions: one constructor per row of spec/opcode_table.json, in the table's
order (30_encoding.md R60). A field named `r…`, `f…` or `d…` names an integer, single or double register;
its second letter is the role `d`, `s` or `c` of the field `Xd`, `Xs`, `Xc` (30_encoding.md R56). -/

namespace Sys2Proof

/-- An instruction with its operand fields. Fields the instruction leaves unused are not kept, since
they take no part in its effect (30_encoding.md R61). -/
inductive Instr where
  /-- SLL Rd,Rs,Rc (R101). -/
  | sll (rd rs rc : RegNum)
  /-- SRL Rd,Rs,Rc (R102). -/
  | srl (rd rs rc : RegNum)
  /-- SRA Rd,Rs,Rc (R103). -/
  | sra (rd rs rc : RegNum)
  /-- ADD Rd,Rs,Rc (R104). -/
  | add (rd rs rc : RegNum)
  /-- ADDU Rd,Rs,Rc (R105). -/
  | addu (rd rs rc : RegNum)
  /-- SUB Rd,Rs,Rc (R106). -/
  | sub (rd rs rc : RegNum)
  /-- SUBU Rd,Rs,Rc (R107). -/
  | subu (rd rs rc : RegNum)
  /-- AND Rd,Rs,Rc (R108). -/
  | and (rd rs rc : RegNum)
  /-- OR Rd,Rs,Rc (R109). -/
  | or (rd rs rc : RegNum)
  /-- XOR Rd,Rs,Rc (R110). -/
  | xor (rd rs rc : RegNum)
  /-- SEQ Rd,Rs,Rc (R111). -/
  | seq (rd rs rc : RegNum)
  /-- SNE Rd,Rs,Rc (R112). -/
  | sne (rd rs rc : RegNum)
  /-- SLT Rd,Rs,Rc (R113). -/
  | slt (rd rs rc : RegNum)
  /-- SGT Rd,Rs,Rc (R114). -/
  | sgt (rd rs rc : RegNum)
  /-- SLE Rd,Rs,Rc (R115). -/
  | sle (rd rs rc : RegNum)
  /-- SGE Rd,Rs,Rc (R116). -/
  | sge (rd rs rc : RegNum)
  /-- MOVI2S Rs (R120). -/
  | movi2s (rs : RegNum)
  /-- MOVS2I Rd (R121). -/
  | movs2i (rd : RegNum)
  /-- MOVF Fd, Fs (R122). -/
  | movf (fd fs : RegNum)
  /-- MOVD Dd, Ds (R123). -/
  | movd (dd ds : RegNum)
  /-- MOVFP2I Rd, Fs (R124). -/
  | movfp2i (rd fs : RegNum)
  /-- MOVI2FP Fd, Rs (R125). -/
  | movi2fp (fd rs : RegNum)
  /-- ADDF Fd,Fs,Fc (R132). -/
  | addf (fd fs fc : RegNum)
  /-- SUBF Fd,Fs,Fc (R133). -/
  | subf (fd fs fc : RegNum)
  /-- MULTF Fd,Fs,Fc (R134). -/
  | multf (fd fs fc : RegNum)
  /-- DIVF Fd,Fs,Fc (R135). -/
  | divf (fd fs fc : RegNum)
  /-- ADDD Dd,Ds,Dc (R136). -/
  | addd (dd ds dc : RegNum)
  /-- SUBD Dd,Ds,Dc (R137). -/
  | subd (dd ds dc : RegNum)
  /-- MULTD Dd,Ds,Dc (R138). -/
  | multd (dd ds dc : RegNum)
  /-- DIVD Dd,Ds,Dc (R139). -/
  | divd (dd ds dc : RegNum)
  /-- CVTF2D Dd,Fs (R141). -/
  | cvtf2d (dd fs : RegNum)
  /-- CVTF2I Rd,Fs (R142). -/
  | cvtf2i (rd fs : RegNum)
  /-- CVTD2F Fd,Ds (R143). -/
  | cvtd2f (fd ds : RegNum)
  /-- CVTD2I Rd,Ds (R144). -/
  | cvtd2i (rd ds : RegNum)
  /-- CVTI2F Fd,Rs (R145). -/
  | cvti2f (fd rs : RegNum)
  /-- CVTI2D Dd,Rs (R146). -/
  | cvti2d (dd rs : RegNum)
  /-- MULT Rd,Rs,Rc (R151). -/
  | mult (rd rs rc : RegNum)
  /-- DIV Rd,Rs,Rc (R152). -/
  | div (rd rs rc : RegNum)
  /-- EQF Fs, Fc (R161). -/
  | eqf (fs fc : RegNum)
  /-- NEF Fs, Fc (R162). -/
  | nef (fs fc : RegNum)
  /-- LTF Fs, Fc (R163). -/
  | ltf (fs fc : RegNum)
  /-- GTF Fs, Fc (R164). -/
  | gtf (fs fc : RegNum)
  /-- LEF Fs, Fc (R165). -/
  | lef (fs fc : RegNum)
  /-- GEF Fs, Fc (R166). -/
  | gef (fs fc : RegNum)
  /-- MULTU Rd,Rs,Rc (R153). -/
  | multu (rd rs rc : RegNum)
  /-- DIVU Rd,Rs,Rc (R154). -/
  | divu (rd rs rc : RegNum)
  /-- EQD Ds, Dc (R167). -/
  | eqd (ds dc : RegNum)
  /-- NED Ds, Dc (R168). -/
  | ned (ds dc : RegNum)
  /-- LTD Ds, Dc (R169). -/
  | ltd (ds dc : RegNum)
  /-- GTD Ds, Dc (R170). -/
  | gtd (ds dc : RegNum)
  /-- LED Ds, Dc (R171). -/
  | led (ds dc : RegNum)
  /-- GED Ds, Dc (R172). -/
  | ged (ds dc : RegNum)
  /-- J Dest (R181). -/
  | j (dest : Dest26)
  /-- JAL Dest (R182). -/
  | jal (dest : Dest26)
  /-- BEQZ Rs, Imm (R183). -/
  | beqz (rs : RegNum) (imm : Imm16)
  /-- BNEZ Rs, Imm (R184). -/
  | bnez (rs : RegNum) (imm : Imm16)
  /-- BFPT Imm (R185). -/
  | bfpt (imm : Imm16)
  /-- BFPF Imm (R186). -/
  | bfpf (imm : Imm16)
  /-- ADDI Rd,Rs,Imm (R201). -/
  | addi (rd rs : RegNum) (imm : Imm16)
  /-- ADDUI Rd,Rs,Imm (R202). -/
  | addui (rd rs : RegNum) (imm : Imm16)
  /-- SUBI Rd,Rs,Imm (R203). -/
  | subi (rd rs : RegNum) (imm : Imm16)
  /-- SUBUI Rd,Rs,Imm (R204). -/
  | subui (rd rs : RegNum) (imm : Imm16)
  /-- ANDI Rd,Rs,Imm (R205). -/
  | andi (rd rs : RegNum) (imm : Imm16)
  /-- ORI Rd,Rs,Imm (R206). -/
  | ori (rd rs : RegNum) (imm : Imm16)
  /-- XORI Rd,Rs,Imm (R207). -/
  | xori (rd rs : RegNum) (imm : Imm16)
  /-- LHI Rd, Imm (R208). -/
  | lhi (rd : RegNum) (imm : Imm16)
  /-- RFE (R220). -/
  | rfe
  /-- TRAP Imm (R221). -/
  | trap (trap : Dest26)
  /-- JR Rs (R187). -/
  | jr (rs : RegNum)
  /-- JALR Rs (R188). -/
  | jalr (rs : RegNum)
  /-- SLLI Rd,Rs,Imm (R209). -/
  | slli (rd rs : RegNum) (imm : Imm16)
  /-- SRLI Rd,Rs,Imm (R210). -/
  | srli (rd rs : RegNum) (imm : Imm16)
  /-- SRAI Rd,Rs,Imm (R211). -/
  | srai (rd rs : RegNum) (imm : Imm16)
  /-- SEQI Rd,Rs,Imm (R212). -/
  | seqi (rd rs : RegNum) (imm : Imm16)
  /-- SNEI Rd,Rs,Imm (R213). -/
  | snei (rd rs : RegNum) (imm : Imm16)
  /-- SLTI Rd,Rs,Imm (R214). -/
  | slti (rd rs : RegNum) (imm : Imm16)
  /-- SGTI Rd,Rs,Imm (R215). -/
  | sgti (rd rs : RegNum) (imm : Imm16)
  /-- SLEI Rd,Rs,Imm (R216). -/
  | slei (rd rs : RegNum) (imm : Imm16)
  /-- SGEI Rd,Rs,Imm (R217). -/
  | sgei (rd rs : RegNum) (imm : Imm16)
  /-- LB Rd,Addr (R231). -/
  | lb (rd rs : RegNum) (imm : Imm16)
  /-- LH Rd,Addr (R232). -/
  | lh (rd rs : RegNum) (imm : Imm16)
  /-- LW Rd,Addr (R233). -/
  | lw (rd rs : RegNum) (imm : Imm16)
  /-- LBU Rd,Addr (R234). -/
  | lbu (rd rs : RegNum) (imm : Imm16)
  /-- LHU Rd,Addr (R235). -/
  | lhu (rd rs : RegNum) (imm : Imm16)
  /-- LF Fd,Addr (R236). -/
  | lf (fd rs : RegNum) (imm : Imm16)
  /-- LD Dr,Addr (R237). -/
  | ld (dd rs : RegNum) (imm : Imm16)
  /-- SB Addr,Rd (R238). -/
  | sb (rd rs : RegNum) (imm : Imm16)
  /-- SH Addr,Rd (R239). -/
  | sh (rd rs : RegNum) (imm : Imm16)
  /-- SW Addr,Rd (R240). -/
  | sw (rd rs : RegNum) (imm : Imm16)
  /-- SF Addr,Fd (R241). -/
  | sf (fd rs : RegNum) (imm : Imm16)
  /-- SD Addr,Dr (R242). -/
  | sd (dd rs : RegNum) (imm : Imm16)
deriving DecidableEq, Repr

end Sys2Proof
end

