-- ==== Sys2Proof/WellFormed.lean ====
section
/-! DEFINITION. Well-formed instructions: what an assembler may write (30_encoding.md R72, R78). The
machine executes ill-formed words too, as their rules say; a model field whose type already bounds it needs
no check (DEDUCED, log entry 14). -/

namespace Sys2Proof

/-- A field in a double-register position names a double register (10_state.md R18, 30_encoding.md R72). -/
def DregField.names (d : DregField) (k : RegNum) : Bool :=
  match d with
  | .evenFIndex => k.val % 2 == 0
  | .dIndex => decide (k.val < 16)

/-- A shift amount written by an assembler lies in `0 .. 31` (30_encoding.md R78). -/
def shiftAmountOk (imm : Imm16) : Bool := decide (imm.toNat < 32)

/-- The well-formed instructions under a coding of the double registers. -/
def Instr.wellFormed (d : DregField) : Instr → Bool
  | .sll _ _ _ => true
  | .srl _ _ _ => true
  | .sra _ _ _ => true
  | .add _ _ _ => true
  | .addu _ _ _ => true
  | .sub _ _ _ => true
  | .subu _ _ _ => true
  | .and _ _ _ => true
  | .or _ _ _ => true
  | .xor _ _ _ => true
  | .seq _ _ _ => true
  | .sne _ _ _ => true
  | .slt _ _ _ => true
  | .sgt _ _ _ => true
  | .sle _ _ _ => true
  | .sge _ _ _ => true
  | .movi2s _ => true
  | .movs2i _ => true
  | .movf _ _ => true
  | .movd dd ds => d.names dd && d.names ds
  | .movfp2i _ _ => true
  | .movi2fp _ _ => true
  | .addf _ _ _ => true
  | .subf _ _ _ => true
  | .multf _ _ _ => true
  | .divf _ _ _ => true
  | .addd dd ds dc => d.names dd && d.names ds && d.names dc
  | .subd dd ds dc => d.names dd && d.names ds && d.names dc
  | .multd dd ds dc => d.names dd && d.names ds && d.names dc
  | .divd dd ds dc => d.names dd && d.names ds && d.names dc
  | .cvtf2d dd _ => d.names dd
  | .cvtf2i _ _ => true
  | .cvtd2f _ ds => d.names ds
  | .cvtd2i _ ds => d.names ds
  | .cvti2f _ _ => true
  | .cvti2d dd _ => d.names dd
  | .mult _ _ _ => true
  | .div _ _ _ => true
  | .eqf _ _ => true
  | .nef _ _ => true
  | .ltf _ _ => true
  | .gtf _ _ => true
  | .lef _ _ => true
  | .gef _ _ => true
  | .multu _ _ _ => true
  | .divu _ _ _ => true
  | .eqd ds dc => d.names ds && d.names dc
  | .ned ds dc => d.names ds && d.names dc
  | .ltd ds dc => d.names ds && d.names dc
  | .gtd ds dc => d.names ds && d.names dc
  | .led ds dc => d.names ds && d.names dc
  | .ged ds dc => d.names ds && d.names dc
  | .j _ => true
  | .jal _ => true
  | .beqz _ _ => true
  | .bnez _ _ => true
  | .bfpt _ => true
  | .bfpf _ => true
  | .addi _ _ _ => true
  | .addui _ _ _ => true
  | .subi _ _ _ => true
  | .subui _ _ _ => true
  | .andi _ _ _ => true
  | .ori _ _ _ => true
  | .xori _ _ _ => true
  | .lhi _ _ => true
  | .rfe => true
  | .trap _ => true
  | .jr _ => true
  | .jalr _ => true
  | .slli _ _ imm => shiftAmountOk imm
  | .srli _ _ imm => shiftAmountOk imm
  | .srai _ _ imm => shiftAmountOk imm
  | .seqi _ _ _ => true
  | .snei _ _ _ => true
  | .slti _ _ _ => true
  | .sgti _ _ _ => true
  | .slei _ _ _ => true
  | .sgei _ _ _ => true
  | .lb _ _ _ => true
  | .lh _ _ _ => true
  | .lw _ _ _ => true
  | .lbu _ _ _ => true
  | .lhu _ _ _ => true
  | .lf _ _ _ => true
  | .ld dd _ _ => d.names dd
  | .sb _ _ _ => true
  | .sh _ _ _ => true
  | .sw _ _ _ => true
  | .sf _ _ _ => true
  | .sd dd _ _ => d.names dd

end Sys2Proof
end

