-- ==== Sys2Proof/Decode.lean ====
section
/-! DEFINITION. The decoder and the encoder, from the formats and the opcode map of 30_encoding.md (R50 to
R60). -/

namespace Sys2Proof

/-- Why a word, or a run of bytes, is no instruction. -/
inductive DecodeReject where
  /-- A primary opcode of no row (30_encoding.md R66). -/
  | reservedOpcode (op : BitVec 6)
  /-- Opcode 00 or 01 with a function of no row (30_encoding.md R66). -/
  | reservedFunction (op : BitVec 6) (func : BitVec 11)
  /-- Fewer than the four bytes every instruction has (30_encoding.md R50). -/
  | truncated
deriving DecidableEq, Repr

/-- `op = w[31:26]` (30_encoding.md R53 to R55). -/
def opField (w : Word) : BitVec 6 := w.extractLsb' 26 6

/-- `func = w[10:0]` (30_encoding.md R53). -/
def funcField (w : Word) : BitVec 11 := w.extractLsb' 0 11

/-- `Xs = w[25:21]`, in formats R and I (30_encoding.md R53, R54). -/
def fieldXs (w : Word) : RegNum := (w.extractLsb' 21 5).toFin

/-- `Xc = w[20:16]` of format R (30_encoding.md R53). -/
def fieldXc (w : Word) : RegNum := (w.extractLsb' 16 5).toFin

/-- `Xd = w[15:11]` of format R (30_encoding.md R53). -/
def fieldXdR (w : Word) : RegNum := (w.extractLsb' 11 5).toFin

/-- `Xd = w[20:16]` of format I (30_encoding.md R54). -/
def fieldXdI (w : Word) : RegNum := (w.extractLsb' 16 5).toFin

/-- `imm = w[15:0]` of format I (30_encoding.md R54). -/
def immField (w : Word) : Imm16 := w.extractLsb' 0 16

/-- `dest = w[25:0]` of format J (30_encoding.md R55). -/
def destField (w : Word) : Dest26 := w.extractLsb' 0 26

/-- The rows of opcode 00 (30_encoding.md R60, first table). -/
def decodeOp00 (func : BitVec 11) (w : Word) : Except DecodeReject Instr :=
  match func with
  | 0x04#11 => .ok (.sll (fieldXdR w) (fieldXs w) (fieldXc w))
  | 0x06#11 => .ok (.srl (fieldXdR w) (fieldXs w) (fieldXc w))
  | 0x07#11 => .ok (.sra (fieldXdR w) (fieldXs w) (fieldXc w))
  | 0x20#11 => .ok (.add (fieldXdR w) (fieldXs w) (fieldXc w))
  | 0x21#11 => .ok (.addu (fieldXdR w) (fieldXs w) (fieldXc w))
  | 0x22#11 => .ok (.sub (fieldXdR w) (fieldXs w) (fieldXc w))
  | 0x23#11 => .ok (.subu (fieldXdR w) (fieldXs w) (fieldXc w))
  | 0x24#11 => .ok (.and (fieldXdR w) (fieldXs w) (fieldXc w))
  | 0x25#11 => .ok (.or (fieldXdR w) (fieldXs w) (fieldXc w))
  | 0x26#11 => .ok (.xor (fieldXdR w) (fieldXs w) (fieldXc w))
  | 0x28#11 => .ok (.seq (fieldXdR w) (fieldXs w) (fieldXc w))
  | 0x29#11 => .ok (.sne (fieldXdR w) (fieldXs w) (fieldXc w))
  | 0x2A#11 => .ok (.slt (fieldXdR w) (fieldXs w) (fieldXc w))
  | 0x2B#11 => .ok (.sgt (fieldXdR w) (fieldXs w) (fieldXc w))
  | 0x2C#11 => .ok (.sle (fieldXdR w) (fieldXs w) (fieldXc w))
  | 0x2D#11 => .ok (.sge (fieldXdR w) (fieldXs w) (fieldXc w))
  | 0x30#11 => .ok (.movi2s (fieldXs w))
  | 0x31#11 => .ok (.movs2i (fieldXdR w))
  | 0x32#11 => .ok (.movf (fieldXdR w) (fieldXs w))
  | 0x33#11 => .ok (.movd (fieldXdR w) (fieldXs w))
  | 0x34#11 => .ok (.movfp2i (fieldXdR w) (fieldXs w))
  | 0x35#11 => .ok (.movi2fp (fieldXdR w) (fieldXs w))
  | _ => .error (.reservedFunction 0 func)

/-- The rows of opcode 01 (30_encoding.md R60, second table). -/
def decodeOp01 (func : BitVec 11) (w : Word) : Except DecodeReject Instr :=
  match func with
  | 0x00#11 => .ok (.addf (fieldXdR w) (fieldXs w) (fieldXc w))
  | 0x01#11 => .ok (.subf (fieldXdR w) (fieldXs w) (fieldXc w))
  | 0x02#11 => .ok (.multf (fieldXdR w) (fieldXs w) (fieldXc w))
  | 0x03#11 => .ok (.divf (fieldXdR w) (fieldXs w) (fieldXc w))
  | 0x04#11 => .ok (.addd (fieldXdR w) (fieldXs w) (fieldXc w))
  | 0x05#11 => .ok (.subd (fieldXdR w) (fieldXs w) (fieldXc w))
  | 0x06#11 => .ok (.multd (fieldXdR w) (fieldXs w) (fieldXc w))
  | 0x07#11 => .ok (.divd (fieldXdR w) (fieldXs w) (fieldXc w))
  | 0x08#11 => .ok (.cvtf2d (fieldXdR w) (fieldXs w))
  | 0x09#11 => .ok (.cvtf2i (fieldXdR w) (fieldXs w))
  | 0x0A#11 => .ok (.cvtd2f (fieldXdR w) (fieldXs w))
  | 0x0B#11 => .ok (.cvtd2i (fieldXdR w) (fieldXs w))
  | 0x0C#11 => .ok (.cvti2f (fieldXdR w) (fieldXs w))
  | 0x0D#11 => .ok (.cvti2d (fieldXdR w) (fieldXs w))
  | 0x0E#11 => .ok (.mult (fieldXdR w) (fieldXs w) (fieldXc w))
  | 0x0F#11 => .ok (.div (fieldXdR w) (fieldXs w) (fieldXc w))
  | 0x10#11 => .ok (.eqf (fieldXs w) (fieldXc w))
  | 0x11#11 => .ok (.nef (fieldXs w) (fieldXc w))
  | 0x12#11 => .ok (.ltf (fieldXs w) (fieldXc w))
  | 0x13#11 => .ok (.gtf (fieldXs w) (fieldXc w))
  | 0x14#11 => .ok (.lef (fieldXs w) (fieldXc w))
  | 0x15#11 => .ok (.gef (fieldXs w) (fieldXc w))
  | 0x16#11 => .ok (.multu (fieldXdR w) (fieldXs w) (fieldXc w))
  | 0x17#11 => .ok (.divu (fieldXdR w) (fieldXs w) (fieldXc w))
  | 0x18#11 => .ok (.eqd (fieldXs w) (fieldXc w))
  | 0x19#11 => .ok (.ned (fieldXs w) (fieldXc w))
  | 0x1A#11 => .ok (.ltd (fieldXs w) (fieldXc w))
  | 0x1B#11 => .ok (.gtd (fieldXs w) (fieldXc w))
  | 0x1C#11 => .ok (.led (fieldXs w) (fieldXc w))
  | 0x1D#11 => .ok (.ged (fieldXs w) (fieldXc w))
  | _ => .error (.reservedFunction 1 func)

/-- The rows by primary opcode (30_encoding.md R60, third table). -/
def decodeOp (op : BitVec 6) (w : Word) : Except DecodeReject Instr :=
  match op with
  | 0x00#6 => decodeOp00 (funcField w) w
  | 0x01#6 => decodeOp01 (funcField w) w
  | 0x02#6 => .ok (.j (destField w))
  | 0x03#6 => .ok (.jal (destField w))
  | 0x04#6 => .ok (.beqz (fieldXs w) (immField w))
  | 0x05#6 => .ok (.bnez (fieldXs w) (immField w))
  | 0x06#6 => .ok (.bfpt (immField w))
  | 0x07#6 => .ok (.bfpf (immField w))
  | 0x08#6 => .ok (.addi (fieldXdI w) (fieldXs w) (immField w))
  | 0x09#6 => .ok (.addui (fieldXdI w) (fieldXs w) (immField w))
  | 0x0A#6 => .ok (.subi (fieldXdI w) (fieldXs w) (immField w))
  | 0x0B#6 => .ok (.subui (fieldXdI w) (fieldXs w) (immField w))
  | 0x0C#6 => .ok (.andi (fieldXdI w) (fieldXs w) (immField w))
  | 0x0D#6 => .ok (.ori (fieldXdI w) (fieldXs w) (immField w))
  | 0x0E#6 => .ok (.xori (fieldXdI w) (fieldXs w) (immField w))
  | 0x0F#6 => .ok (.lhi (fieldXdI w) (immField w))
  | 0x10#6 => .ok .rfe
  | 0x11#6 => .ok (.trap (destField w))
  | 0x12#6 => .ok (.jr (fieldXs w))
  | 0x13#6 => .ok (.jalr (fieldXs w))
  | 0x14#6 => .ok (.slli (fieldXdI w) (fieldXs w) (immField w))
  | 0x16#6 => .ok (.srli (fieldXdI w) (fieldXs w) (immField w))
  | 0x17#6 => .ok (.srai (fieldXdI w) (fieldXs w) (immField w))
  | 0x18#6 => .ok (.seqi (fieldXdI w) (fieldXs w) (immField w))
  | 0x19#6 => .ok (.snei (fieldXdI w) (fieldXs w) (immField w))
  | 0x1A#6 => .ok (.slti (fieldXdI w) (fieldXs w) (immField w))
  | 0x1B#6 => .ok (.sgti (fieldXdI w) (fieldXs w) (immField w))
  | 0x1C#6 => .ok (.slei (fieldXdI w) (fieldXs w) (immField w))
  | 0x1D#6 => .ok (.sgei (fieldXdI w) (fieldXs w) (immField w))
  | 0x20#6 => .ok (.lb (fieldXdI w) (fieldXs w) (immField w))
  | 0x21#6 => .ok (.lh (fieldXdI w) (fieldXs w) (immField w))
  | 0x23#6 => .ok (.lw (fieldXdI w) (fieldXs w) (immField w))
  | 0x24#6 => .ok (.lbu (fieldXdI w) (fieldXs w) (immField w))
  | 0x25#6 => .ok (.lhu (fieldXdI w) (fieldXs w) (immField w))
  | 0x26#6 => .ok (.lf (fieldXdI w) (fieldXs w) (immField w))
  | 0x27#6 => .ok (.ld (fieldXdI w) (fieldXs w) (immField w))
  | 0x28#6 => .ok (.sb (fieldXdI w) (fieldXs w) (immField w))
  | 0x29#6 => .ok (.sh (fieldXdI w) (fieldXs w) (immField w))
  | 0x3B#6 => .ok (.sw (fieldXdI w) (fieldXs w) (immField w))
  | 0x3E#6 => .ok (.sf (fieldXdI w) (fieldXs w) (immField w))
  | 0x3F#6 => .ok (.sd (fieldXdI w) (fieldXs w) (immField w))
  | _ => .error (.reservedOpcode op)

/-- The decoder (30_encoding.md R59): total, and it looks at no unused field (R61). -/
def decode (w : Word) : Except DecodeReject Instr := decodeOp (opField w) w

/-- The word of four bytes in memory order: big-endian, the first byte is `w[31:24]` (20_memory.md R38). -/
def wordOfBytes (b0 b1 b2 b3 : Byte) : Word := b0 ++ b1 ++ b2 ++ b3

/-- The byte of a word that lies at offset 0, 1, 2 or 3 from its address (20_memory.md R32). -/
def byteOfWord (w : Word) (i : Nat) : Byte := w.extractLsb' (24 - 8 * i) 8

/-- Decoding from bytes in memory order, with what follows the instruction: total on any bytes. -/
def decodeBytes : List Byte → Except DecodeReject (Instr × List Byte)
  | b0 :: b1 :: b2 :: b3 :: rest =>
    match decode (wordOfBytes b0 b1 b2 b3) with
    | .ok i => .ok (i, rest)
    | .error e => .error e
  | _ => .error .truncated

/-- A word of format R from its fields (30_encoding.md R53). -/
def packR (op : BitVec 6) (s c d : RegNum) (func : BitVec 11) : Word :=
  op ++ (BitVec.ofFin s : BitVec 5) ++ (BitVec.ofFin c : BitVec 5) ++ (BitVec.ofFin d : BitVec 5) ++ func

/-- A word of format I from its fields (30_encoding.md R54). -/
def packI (op : BitVec 6) (s d : RegNum) (imm : Imm16) : Word :=
  op ++ (BitVec.ofFin s : BitVec 5) ++ (BitVec.ofFin d : BitVec 5) ++ imm

/-- A word of format J from its fields (30_encoding.md R55). -/
def packJ (op : BitVec 6) (dest : Dest26) : Word := op ++ dest

/-- The word of an instruction, every unused field zero (30_encoding.md R60, R78). -/
def encode : Instr → Word
  | .sll rd rs rc => packR 0x00#6 rs rc rd 0x04#11
  | .srl rd rs rc => packR 0x00#6 rs rc rd 0x06#11
  | .sra rd rs rc => packR 0x00#6 rs rc rd 0x07#11
  | .add rd rs rc => packR 0x00#6 rs rc rd 0x20#11
  | .addu rd rs rc => packR 0x00#6 rs rc rd 0x21#11
  | .sub rd rs rc => packR 0x00#6 rs rc rd 0x22#11
  | .subu rd rs rc => packR 0x00#6 rs rc rd 0x23#11
  | .and rd rs rc => packR 0x00#6 rs rc rd 0x24#11
  | .or rd rs rc => packR 0x00#6 rs rc rd 0x25#11
  | .xor rd rs rc => packR 0x00#6 rs rc rd 0x26#11
  | .seq rd rs rc => packR 0x00#6 rs rc rd 0x28#11
  | .sne rd rs rc => packR 0x00#6 rs rc rd 0x29#11
  | .slt rd rs rc => packR 0x00#6 rs rc rd 0x2A#11
  | .sgt rd rs rc => packR 0x00#6 rs rc rd 0x2B#11
  | .sle rd rs rc => packR 0x00#6 rs rc rd 0x2C#11
  | .sge rd rs rc => packR 0x00#6 rs rc rd 0x2D#11
  | .movi2s rs => packR 0x00#6 rs 0 0 0x30#11
  | .movs2i rd => packR 0x00#6 0 0 rd 0x31#11
  | .movf fd fs => packR 0x00#6 fs 0 fd 0x32#11
  | .movd dd ds => packR 0x00#6 ds 0 dd 0x33#11
  | .movfp2i rd fs => packR 0x00#6 fs 0 rd 0x34#11
  | .movi2fp fd rs => packR 0x00#6 rs 0 fd 0x35#11
  | .addf fd fs fc => packR 0x01#6 fs fc fd 0x00#11
  | .subf fd fs fc => packR 0x01#6 fs fc fd 0x01#11
  | .multf fd fs fc => packR 0x01#6 fs fc fd 0x02#11
  | .divf fd fs fc => packR 0x01#6 fs fc fd 0x03#11
  | .addd dd ds dc => packR 0x01#6 ds dc dd 0x04#11
  | .subd dd ds dc => packR 0x01#6 ds dc dd 0x05#11
  | .multd dd ds dc => packR 0x01#6 ds dc dd 0x06#11
  | .divd dd ds dc => packR 0x01#6 ds dc dd 0x07#11
  | .cvtf2d dd fs => packR 0x01#6 fs 0 dd 0x08#11
  | .cvtf2i rd fs => packR 0x01#6 fs 0 rd 0x09#11
  | .cvtd2f fd ds => packR 0x01#6 ds 0 fd 0x0A#11
  | .cvtd2i rd ds => packR 0x01#6 ds 0 rd 0x0B#11
  | .cvti2f fd rs => packR 0x01#6 rs 0 fd 0x0C#11
  | .cvti2d dd rs => packR 0x01#6 rs 0 dd 0x0D#11
  | .mult rd rs rc => packR 0x01#6 rs rc rd 0x0E#11
  | .div rd rs rc => packR 0x01#6 rs rc rd 0x0F#11
  | .eqf fs fc => packR 0x01#6 fs fc 0 0x10#11
  | .nef fs fc => packR 0x01#6 fs fc 0 0x11#11
  | .ltf fs fc => packR 0x01#6 fs fc 0 0x12#11
  | .gtf fs fc => packR 0x01#6 fs fc 0 0x13#11
  | .lef fs fc => packR 0x01#6 fs fc 0 0x14#11
  | .gef fs fc => packR 0x01#6 fs fc 0 0x15#11
  | .multu rd rs rc => packR 0x01#6 rs rc rd 0x16#11
  | .divu rd rs rc => packR 0x01#6 rs rc rd 0x17#11
  | .eqd ds dc => packR 0x01#6 ds dc 0 0x18#11
  | .ned ds dc => packR 0x01#6 ds dc 0 0x19#11
  | .ltd ds dc => packR 0x01#6 ds dc 0 0x1A#11
  | .gtd ds dc => packR 0x01#6 ds dc 0 0x1B#11
  | .led ds dc => packR 0x01#6 ds dc 0 0x1C#11
  | .ged ds dc => packR 0x01#6 ds dc 0 0x1D#11
  | .j dest => packJ 0x02#6 dest
  | .jal dest => packJ 0x03#6 dest
  | .beqz rs imm => packI 0x04#6 rs 0 imm
  | .bnez rs imm => packI 0x05#6 rs 0 imm
  | .bfpt imm => packI 0x06#6 0 0 imm
  | .bfpf imm => packI 0x07#6 0 0 imm
  | .addi rd rs imm => packI 0x08#6 rs rd imm
  | .addui rd rs imm => packI 0x09#6 rs rd imm
  | .subi rd rs imm => packI 0x0A#6 rs rd imm
  | .subui rd rs imm => packI 0x0B#6 rs rd imm
  | .andi rd rs imm => packI 0x0C#6 rs rd imm
  | .ori rd rs imm => packI 0x0D#6 rs rd imm
  | .xori rd rs imm => packI 0x0E#6 rs rd imm
  | .lhi rd imm => packI 0x0F#6 0 rd imm
  | .rfe => packJ 0x10#6 0
  | .trap trap => packJ 0x11#6 trap
  | .jr rs => packI 0x12#6 rs 0 0
  | .jalr rs => packI 0x13#6 rs 0 0
  | .slli rd rs imm => packI 0x14#6 rs rd imm
  | .srli rd rs imm => packI 0x16#6 rs rd imm
  | .srai rd rs imm => packI 0x17#6 rs rd imm
  | .seqi rd rs imm => packI 0x18#6 rs rd imm
  | .snei rd rs imm => packI 0x19#6 rs rd imm
  | .slti rd rs imm => packI 0x1A#6 rs rd imm
  | .sgti rd rs imm => packI 0x1B#6 rs rd imm
  | .slei rd rs imm => packI 0x1C#6 rs rd imm
  | .sgei rd rs imm => packI 0x1D#6 rs rd imm
  | .lb rd rs imm => packI 0x20#6 rs rd imm
  | .lh rd rs imm => packI 0x21#6 rs rd imm
  | .lw rd rs imm => packI 0x23#6 rs rd imm
  | .lbu rd rs imm => packI 0x24#6 rs rd imm
  | .lhu rd rs imm => packI 0x25#6 rs rd imm
  | .lf fd rs imm => packI 0x26#6 rs fd imm
  | .ld dd rs imm => packI 0x27#6 rs dd imm
  | .sb rd rs imm => packI 0x28#6 rs rd imm
  | .sh rd rs imm => packI 0x29#6 rs rd imm
  | .sw rd rs imm => packI 0x3B#6 rs rd imm
  | .sf fd rs imm => packI 0x3E#6 rs fd imm
  | .sd dd rs imm => packI 0x3F#6 rs dd imm

/-- The bits of the word that the instruction is made of: those that choose it (the `mask` of
30_encoding.md R60) and those of the fields it has. Every other bit is unused and ignored (R61). -/
def Instr.usedBits : Instr → Word
  | .sll _ _ _ | .srl _ _ _ | .sra _ _ _ | .add _ _ _ | .addu _ _ _ | .sub _ _ _ | .subu _ _ _
    | .and _ _ _ | .or _ _ _ | .xor _ _ _ | .seq _ _ _ | .sne _ _ _ | .slt _ _ _ | .sgt _ _ _ | .sle _ _ _
    | .sge _ _ _ | .addf _ _ _ | .subf _ _ _ | .multf _ _ _ | .divf _ _ _ | .addd _ _ _ | .subd _ _ _
    | .multd _ _ _ | .divd _ _ _ | .mult _ _ _ | .div _ _ _ | .multu _ _ _ | .divu _ _ _ | .j _ | .jal _
    | .addi _ _ _ | .addui _ _ _ | .subi _ _ _ | .subui _ _ _ | .andi _ _ _ | .ori _ _ _ | .xori _ _ _
    | .trap _ | .slli _ _ _ | .srli _ _ _ | .srai _ _ _ | .seqi _ _ _ | .snei _ _ _ | .slti _ _ _
    | .sgti _ _ _ | .slei _ _ _ | .sgei _ _ _ | .lb _ _ _ | .lh _ _ _ | .lw _ _ _ | .lbu _ _ _
    | .lhu _ _ _ | .lf _ _ _ | .ld _ _ _ | .sb _ _ _ | .sh _ _ _ | .sw _ _ _ | .sf _ _ _
    | .sd _ _ _ => 0xFFFFFFFF#32
  | .eqf _ _ | .nef _ _ | .ltf _ _ | .gtf _ _ | .lef _ _ | .gef _ _ | .eqd _ _ | .ned _ _ | .ltd _ _
    | .gtd _ _ | .led _ _ | .ged _ _ => 0xFFFF07FF#32
  | .movf _ _ | .movd _ _ | .movfp2i _ _ | .movi2fp _ _ | .cvtf2d _ _ | .cvtf2i _ _ | .cvtd2f _ _
    | .cvtd2i _ _ | .cvti2f _ _ | .cvti2d _ _ | .beqz _ _ | .bnez _ _ => 0xFFE0FFFF#32
  | .movi2s _ => 0xFFE007FF#32
  | .jr _ | .jalr _ => 0xFFE00000#32
  | .lhi _ _ => 0xFC1FFFFF#32
  | .movs2i _ | .bfpt _ | .bfpf _ => 0xFC00FFFF#32
  | .rfe => 0xFC000000#32

/-- The bytes of an instruction in memory order (20_memory.md R38). -/
def encodeBytes (i : Instr) : List Byte :=
  [byteOfWord (encode i) 0, byteOfWord (encode i) 1, byteOfWord (encode i) 2, byteOfWord (encode i) 3]

/-- What the decoder reads from an instruction whose bits are `w`, bit 0 the least significant bit of its
one word: the word is laid out in its byte order and the bytes are decoded. -/
def decodeTableWord (nbits w : Nat) : Option Instr :=
  let word : Word := BitVec.ofNat 32 (w % 2 ^ nbits)
  match decodeBytes [byteOfWord word 0, byteOfWord word 1, byteOfWord word 2, byteOfWord word 3] with
  | .ok (i, _) => some i
  | .error _ => none

end Sys2Proof
end

