-- ==== Sys2Proof/Machine/State.lean ====
section
/-! DEFINITION. The state of the machine as plain data, the reasons a step can stop, and reset
(10_state.md). -/

namespace Sys2Proof.Machine

/-- The kinds of model fault, the closed list of 60_exceptions.md R304: what the run status of a run ended by
one holds. -/
inductive FaultKind where
  | fetchMisaligned
  | fetchOutOfRange
  | fetchModified
  | reservedInstruction
  | reservedDoubleRegister
  /-- A read of a register nothing has written since reset (10_state.md R14). -/
  | unwrittenRead
  | dataMisaligned
  | dataOutOfRange
  | divideByZero
  | rfeNoSavedState
  | nestedTrap
deriving DecidableEq, Repr

/-- What a step answers a model fault with (60_exceptions.md R304). UnwrittenRead, a matter of the launch
parameter `unwritten` and of no operand, is not among them: there the step answers the final state of the run
itself (`execChecked`, log entry 2). The spec gives each situation no
behaviour and stops the run there; stopping is SAFE: a claim about a run that does not fault rests on none of
them. -/
inductive Fault where
  /-- The fetch, when `pc mod 4 ≠ 0` (20_memory.md R38). Safe. -/
  | fetchMisaligned
  /-- The fetch, when the four bytes at pc are not all inside memory (20_memory.md R38). Safe. -/
  | fetchOutOfRange
  /-- The fetch, with `ALLOW_SMC = false`, of a byte a store of this run wrote (20_memory.md R45). Safe. -/
  | fetchModified
  /-- Decoding, when the word matches no row of the opcode map (30_encoding.md R66). Safe. -/
  | reservedInstruction
  /-- An instruction with a D operand whose field names no double register (10_state.md R18). Safe. -/
  | reservedDoubleRegister
  /-- A load or store whose address is no multiple of its size (20_memory.md R35). Safe. -/
  | dataMisaligned
  /-- A load or store of bytes outside memory (20_memory.md R36). Safe. -/
  | dataOutOfRange
  /-- DIV and DIVU, when the divisor is zero (43_int_muldiv.md R152, R154). Safe. -/
  | divideByZero
  /-- RFE with nothing saved (47_trap_rfe.md R220). Safe. -/
  | rfeNoSavedState
  /-- TRAP while a resume address is saved (60_exceptions.md R300). Safe. -/
  | nestedTrap
deriving DecidableEq, Repr

/-- The kind of a fault (60_exceptions.md R304). -/
def Fault.kind : Fault → FaultKind
  | .fetchMisaligned => .fetchMisaligned
  | .fetchOutOfRange => .fetchOutOfRange
  | .fetchModified => .fetchModified
  | .reservedInstruction => .reservedInstruction
  | .reservedDoubleRegister => .reservedDoubleRegister
  | .dataMisaligned => .dataMisaligned
  | .dataOutOfRange => .dataOutOfRange
  | .divideByZero => .divideByZero
  | .rfeNoSavedState => .rfeNoSavedState
  | .nestedTrap => .nestedTrap

/-- Why the model gives an instruction no meaning. -/
inductive Refusal where
  /-- Raised by exec's arm of an instruction that has no meaning yet. No arm raises it now. Safe. -/
  | notModelled (mnemonic : String)
deriving DecidableEq, Repr

/-- A register with its *written* mark (10_state.md R14, R26). -/
structure Marked (α : Type) where
  value : α
  written : Bool
deriving DecidableEq, Repr

/-- The run status (10_state.md R26, 70_reset_and_hazards.md R362). -/
inductive Status where
  | running
  | halted (trap : Dest26)
  | faulted (kind : FaultKind) (address : Word)
deriving DecidableEq, Repr

/-- Memory: the bytes that differ from `Config.launchByte`, by strictly rising address. -/
abbrev Memory := List Host.Cell

/-- The whole state (10_state.md), with the launch parameters and the model's own counts. -/
structure State where
  /-- `R0` to `R31` (R10). Slot 0 stands for the constant R0 and no operation writes it. -/
  r : Vector (Marked Word) 32
  /-- `F0` to `F31` (R16); `Dn` is the pair `F(2n)`, `F(2n+1)` (R17). -/
  f : Vector (Marked Word) 32
  /-- The floating-point status register, one bit (R19). -/
  fpsr : Marked Bool
  /-- `RegSpecial` (R23). -/
  special : Marked Word
  /-- The program counter: between steps the address of the next instruction (R20). -/
  pc : Word
  /-- The saved-state slot of TRAP and RFE (R24). -/
  saved : Option Word
  /-- The one memory (R25). -/
  mem : Memory
  /-- The byte addresses stores of this run have written, strictly rising (R26, 20_memory.md R45). -/
  modified : List Nat
  /-- The run status (R26). -/
  status : Status
  /-- How many free values have been drawn (the model's own, log entry 8). -/
  draws : Nat
  /-- How many traps TrapService has answered (the model's own, log entry 7). -/
  served : Nat
  /-- The launch parameters, which no step changes (R28, log entry 5). -/
  params : Params
deriving DecidableEq, Repr

/-- An integer register at reset: slot 0, R0, is 0 and counts as written; the others hold the value the launch
picks, unwritten (10_state.md R11, R14, R27). -/
def resetIntReg (u : UnwrittenRule) (i : Fin 32) : Marked Word :=
  if i = 0 then ⟨0, true⟩ else ⟨u.pick Config.resetWord (Config.launchR i), false⟩

/-- An F register at reset: the value the launch picks, unwritten (10_state.md R14, R27). -/
def resetFpReg (u : UnwrittenRule) (i : Fin 32) : Marked Word :=
  ⟨u.pick Config.resetWord (Config.launchF i), false⟩

/-- The machine right after reset under given launch parameters (10_state.md R27,
70_reset_and_hazards.md R350). -/
def State.resetWith (p : Params) : State where
  r := Vector.ofFn (resetIntReg p.unwritten)
  f := Vector.ofFn (resetFpReg p.unwritten)
  fpsr := ⟨p.unwritten.pick Config.resetFpsr Config.launchFpsr, false⟩
  special := ⟨p.unwritten.pick Config.resetWord Config.launchSpecial, false⟩
  pc := p.resetPc
  saved := none
  mem := []
  modified := []
  status := .running
  draws := 0
  served := 0
  params := p

/-- The machine right after reset under the default parameters. -/
def State.reset : State := State.resetWith Config.defaults

end Sys2Proof.Machine

namespace Sys2Proof

/-- The answer to a trap number in a state under a TrapService of which nothing is known: a free value, an
arbitrary function of the number and of the whole state with its count of answered traps
(60_exceptions.md R301, log entry 7). -/
opaque Config.trapAnswer : Dest26 → Machine.State → ServiceAnswer

end Sys2Proof
end

