-- ==== Sys2Proof/Machine/Ops.lean ====
section
/-! DEFINITION. The named operations over memory, registers, pc and the saved slot; the outcome of an
instruction; taking a trap and returning from one. -/

namespace Sys2Proof.Machine

/-- What an instruction answers. -/
abbrev StepOutcome := Host.Outcome State Fault Refusal

/-- Go on with an operand, or stop with the fault that reading it raised (60_exceptions.md R303). -/
def withOperand {α : Type} (x : Except Fault α) (k : α → StepOutcome) : StepOutcome :=
  match x with
  | .ok a => k a
  | .error e => .fault e

/-! ### Memory -/

/-- The byte at an address (20_memory.md R30). -/
def Memory.read : Memory → Nat → Byte
  | [], _ => Config.launchByte
  | (a', b) :: m, a => if a' = a then b else Memory.read m a

/-- `m` with the byte `b` at address `a`, in canonical form again. -/
def Memory.write : Memory → Nat → Byte → Memory
  | [], a, b => if b = Config.launchByte then [] else [(a, b)]
  | (a', b') :: m, a, b =>
    if a < a' then
      if b = Config.launchByte then (a', b') :: m else (a, b) :: (a', b') :: m
    else if a = a' then
      if b = Config.launchByte then m else (a, b) :: m
    else (a', b') :: Memory.write m a b

/-- Canonical form: strictly rising addresses, and no byte listed that reads the same unlisted. -/
def Memory.wf : Memory → Bool
  | [] => true
  | (a, b) :: m => b != Config.launchByte && m.all (fun c => decide (a < c.1)) && Memory.wf m

/-- The unsigned number of the `n` bytes at `a`, big-endian: the byte at `a` is the most significant
(20_memory.md R32). -/
def Memory.readBE (m : Memory) (a : Nat) : Nat → Nat
  | 0 => 0
  | n + 1 => (Memory.read m a).toNat * 256 ^ n + Memory.readBE m (a + 1) n

/-- Store the low `n` bytes of `v` at `a`, the most significant at `a` (20_memory.md R32). -/
def Memory.writeBE (m : Memory) (a : Nat) : Nat → Nat → Memory
  | 0, _ => m
  | n + 1, v => Memory.write (Memory.writeBE m (a + 1) n v) a (BitVec.ofNat 8 (v / 256 ^ n))

/-- The `n` bytes at `a` are all inside `[MEM_BASE, MEM_BASE + MEM_SIZE)`, on integers without wrap
(20_memory.md R36). -/
abbrev Params.InRange (p : Params) (a n : Nat) : Prop :=
  p.memBase.toNat ≤ a ∧ a + n ≤ p.memBase.toNat + p.memSize

/-- Add one address to a strictly rising list. -/
def addAddr : List Nat → Nat → List Nat
  | [], a => [a]
  | a' :: l, a => if a < a' then a :: a' :: l else if a = a' then a' :: l else a' :: addAddr l a

/-- Add the `n` addresses from `a` on. -/
def addAddrs (l : List Nat) (a : Nat) : Nat → List Nat
  | 0 => l
  | n + 1 => addAddr (addAddrs l (a + 1) n) a

/-- Strictly rising. -/
def addrsRising : List Nat → Bool
  | [] => true
  | a :: l => l.all (fun b => decide (a < b)) && addrsRising l

/-- The checks of a data access: alignment, then range (20_memory.md R35, R36). -/
def State.checkAccess (s : State) (a : Word) (n : Nat) : Except Fault Unit :=
  if a.toNat % n ≠ 0 then .error .dataMisaligned
  else if Params.InRange s.params a.toNat n then .ok ()
  else .error .dataOutOfRange

/-- `MemRead(a, n)` (20_memory.md R32, R35, R36). -/
def State.memRead (s : State) (a : Word) (n : Nat) : Except Fault (BitVec (8 * n)) :=
  match s.checkAccess a n with
  | .error e => .error e
  | .ok () => .ok (BitVec.ofNat (8 * n) (s.mem.readBE a.toNat n))

/-- `MemWrite(a, n, v)`, which also adds the bytes to `modified` unless `ALLOW_SMC` (20_memory.md R32,
R35, R36, R45; DEDUCED, log entry 15). -/
def State.memWrite (s : State) (a : Word) (n : Nat) (v : BitVec (8 * n)) : Except Fault State :=
  match s.checkAccess a n with
  | .error e => .error e
  | .ok () =>
    .ok { s with
      mem := s.mem.writeBE a.toNat n v.toNat
      modified := if s.params.allowSmc then s.modified else addAddrs s.modified a.toNat n }

/-- One of the four bytes at pc was written by a store of this run (20_memory.md R38, R45). -/
def State.fetchTouchesModified (s : State) : Bool :=
  s.modified.any fun b => decide (s.pc.toNat ≤ b ∧ b < s.pc.toNat + 4)

/-- The fetch with its three checks, in order (20_memory.md R38). -/
def State.fetch (s : State) : Except Fault Word :=
  if s.pc.toNat % 4 ≠ 0 then .error .fetchMisaligned
  else if ¬ Params.InRange s.params s.pc.toNat 4 then .error .fetchOutOfRange
  else if s.params.allowSmc = false ∧ s.fetchTouchesModified = true then .error .fetchModified
  else .ok (wordOfBytes (s.mem.read s.pc.toNat) (s.mem.read (s.pc.toNat + 1))
    (s.mem.read (s.pc.toNat + 2)) (s.mem.read (s.pc.toNat + 3)))

/-! ### Registers -/

/-- `x[i]`: R0 reads 0 in every state (10_state.md R11); a register nothing has written reads as what it has
held since reset (log entry 2). -/
def State.readR (s : State) (i : RegNum) : Word := if i = 0 then 0 else (s.r.get i).value

/-- `x[i] <- v`: discarded for R0; sets the *written* mark (10_state.md R12, R14). -/
def State.writeR (s : State) (i : RegNum) (v : Word) : State :=
  if i = 0 then s else { s with r := s.r.set i.val ⟨v, true⟩ i.isLt }

/-- `f[i]` (10_state.md R16). -/
def State.readF (s : State) (i : RegNum) : Word := (s.f.get i).value

/-- `f[i] <- v` (10_state.md R16, R14). -/
def State.writeF (s : State) (i : RegNum) (v : Word) : State :=
  { s with f := s.f.set i.val ⟨v, true⟩ i.isLt }

/-- `fpsr` (10_state.md R19). -/
def State.readFpsr (s : State) : Bool := s.fpsr.value

/-- `fpsr <- b` (10_state.md R19, R14). -/
def State.writeFpsr (s : State) (b : Bool) : State := { s with fpsr := ⟨b, true⟩ }

/-- `special` (10_state.md R23). -/
def State.readSpecial (s : State) : Word := s.special.value

/-- `special <- v` (10_state.md R23, R14). -/
def State.writeSpecial (s : State) (v : Word) : State := { s with special := ⟨v, true⟩ }

/-! ### The program counter -/

/-- `A + 4`, what `PC` means while the instruction at `A` executes (10_state.md R21). -/
def State.nextPc (s : State) : Word := s.pc + 4

/-- Leave pc at `A + 4`. -/
def State.advance (s : State) : State := { s with pc := s.nextPc }

/-- `pc <- target`, with no check of the target (45_control_transfer.md R191). -/
def State.jumpTo (s : State) (target : Word) : State := { s with pc := target }

/-- What `LINK_DELTA` is as a number (00_scope.md R4). -/
def linkDeltaValue : LinkDelta → Word
  | .zero => 0
  | .four => 4

/-- The link value, `A + 4 + LINK_DELTA` (45_control_transfer.md R180). -/
def State.linkValue (s : State) : Word := s.nextPc + linkDeltaValue s.params.linkDelta

/-! ### Writes from outside -/

/-- One write of the host or of TrapService: R0 and bytes outside memory cannot be written, a written
register gets its mark, and bytes are not added to `modified` (60_exceptions.md R301,
70_reset_and_hazards.md R352, 10_state.md R14; DEDUCED, log entry 16). -/
def State.applyWrite (s : State) : HostWrite → State
  | .intReg i v => s.writeR i v
  | .fpReg i v => s.writeF i v
  | .fpsr b => s.writeFpsr b
  | .special v => s.writeSpecial v
  | .byte a b => if Params.InRange s.params a.toNat 1 then { s with mem := s.mem.write a.toNat b } else s

/-- Several writes, in order. -/
def State.applyWrites (s : State) : List HostWrite → State
  | [] => s
  | w :: ws => (s.applyWrite w).applyWrites ws

/-- The state before the first step: reset under the parameters the host chooses, then what it places, memory
image and INIT (70_reset_and_hazards.md R352 (1) to (4)). -/
def State.launch (p : Params) (placed : List HostWrite) : State :=
  (State.resetWith p).applyWrites placed

/-! ### The trap -/

/-- `vec(n)` (60_exceptions.md R300). -/
def VectorTable.target (t : VectorTable) (n : Dest26) : Word := lookup t.entries
where
  lookup : List (Dest26 × Word) → Word
    | [] => t.otherwise
    | (m, a) :: rest => if m = n then a else lookup rest

/-- The state a TRAP hands over: the resume address saved and pc there (60_exceptions.md R300 (2), R301). -/
def State.handedOver (s : State) : State := { s with pc := s.nextPc, saved := some s.nextPc }

/-- The answer of TrapService to the trap `n`, `s` being the state handed over (60_exceptions.md R301, log
entry 7). -/
def State.serviceAnswer (s : State) (n : Dest26) : ServiceAnswer :=
  match s.params.trapService with
  | .script first always => (first[s.served]?).getD always
  | .any => Config.trapAnswer n s

/-- Return from a trap: go to the resume address and empty the slot; nothing else is restored, since
nothing else was saved (60_exceptions.md R302). -/
def State.returnFromTrap (s : State) : StepOutcome :=
  match s.saved with
  | none => .fault .rfeNoSavedState
  | some resume => .next { s with pc := resume, saved := none }

/-- One more trap is answered. -/
def State.countServed (s : State) : State := { s with served := s.served + 1 }

/-- TrapService answers the trap `n`; `s` is the state handed over. After Halt the state stays as it is, and
after Resume it is the state with the service's writes, returned from as by RFE (60_exceptions.md R301). -/
def State.serveTrap (s : State) (n : Dest26) : StepOutcome :=
  match s.serviceAnswer n with
  | .halt => .next { s.countServed with status := .halted n }
  | .resume ws => (s.countServed.applyWrites ws).returnFromTrap

/-- Trap entry, `raise Trap(n)` (60_exceptions.md R300): the one exception of the machine. The slot is
checked before the mode (DEDUCED, log entry 17). -/
def State.takeTrap (s : State) (n : Dest26) : StepOutcome :=
  match s.saved with
  | some _ => .fault .nestedTrap
  | none =>
    match s.params.trapMode with
    | .environment => s.handedOver.serveTrap n
    | .vectored vec => .next { s with pc := VectorTable.target vec n, saved := some s.nextPc }

/-! ### The end of a run -/

/-- The state a model fault leaves: nothing written, pc at the faulting instruction, the status final
(60_exceptions.md R303, 70_reset_and_hazards.md R362). -/
def State.afterFault (s : State) (k : FaultKind) : State := { s with status := .faulted k s.pc }

end Sys2Proof.Machine
end

