-- ==== Sys2Proof/Machine/Operands.lean ====
section
/-! DEFINITION. The operand forms: immediates, double registers, effective addresses, branch targets, and
the free values a floating-point result may need. -/

namespace Sys2Proof.Machine

/-! ### Immediates (30_encoding.md R57, R58) -/

/-- `sext_32(imm)`. -/
def sextImm (imm : Imm16) : Word := imm.signExtend 32

/-- `zext_32(imm)`. -/
def zextImm (imm : Imm16) : Word := imm.zeroExtend 32

/-- `imm ++ 0x0000` (46_int_immediate.md R208). -/
def highImm (imm : Imm16) : Word := imm ++ (0 : BitVec 16)

/-- `imm[4:0]` as a shift amount (46_int_immediate.md R209). -/
def immShiftAmount (imm : Imm16) : Nat := (imm.extractLsb' 0 5).toNat

/-- `A + 4 + s(imm)` (45_control_transfer.md R190). -/
def State.branchTarget (s : State) (imm : Imm16) : Word := s.nextPc + imm.signExtend 32

/-- `A + 4 + s(dest)` (45_control_transfer.md R190). -/
def State.jumpTarget (s : State) (dest : Dest26) : Word := s.nextPc + dest.signExtend 32

/-- `ea = trunc_32(x[s] + sext_32(imm))` (48_loads_stores.md R230). -/
def effectiveAddress (base : Word) (imm : Imm16) : Word := base + sextImm imm

/-- The address of an operand `disp(Rbase)` (48_loads_stores.md R230). -/
def State.readAddress (s : State) (rs : RegNum) (imm : Imm16) : Word := effectiveAddress (s.readR rs) imm

/-! ### Double registers (10_state.md R17, R18) -/

/-- The F registers of a double register: the more significant half, then the less significant one. -/
structure Pair where
  hi : RegNum
  lo : RegNum
deriving DecidableEq, Repr

/-- The pair a field in a D position names under a coding (10_state.md R18). -/
def DregField.pair (d : DregField) (k : RegNum) : Except Fault Pair :=
  match d with
  | .evenFIndex => if k.val % 2 = 0 then .ok ⟨k, k + 1⟩ else .error .reservedDoubleRegister
  | .dIndex => if k.val < 16 then .ok ⟨k + k, k + k + 1⟩ else .error .reservedDoubleRegister

/-- The pair a field names in this launch. -/
def State.pair (s : State) (k : RegNum) : Except Fault Pair := DregField.pair s.params.dregField k

/-- The 64-bit value of a pair: the even register holds the more significant half (10_state.md R17). -/
def State.readPair (s : State) (p : Pair) : DWord := s.readF p.hi ++ s.readF p.lo

/-- `f[e] <- v[63:32]; f[e+1] <- v[31:0]` (10_state.md R18). -/
def State.writePair (s : State) (p : Pair) (v : DWord) : State :=
  (s.writeF p.hi (v.extractLsb' 32 32)).writeF p.lo (v.extractLsb' 0 32)

/-! ### Free values (42_fp_arith_convert.md R131 (a), R140; log entries 8 and 9) -/

/-- The k-th free NaN of binary32. -/
def freeNan32 (k : Nat) : Word :=
  BitVec.ofBool (Config.freeNan32 k).1 ++ 0xFF#8 ++ BitVec.ofNat 23 ((Config.freeNan32 k).2.val + 1)

/-- The k-th free NaN of binary64. -/
def freeNan64 (k : Nat) : DWord :=
  BitVec.ofBool (Config.freeNan64 k).1 ++ 0x7FF#11 ++ BitVec.ofNat 52 ((Config.freeNan64 k).2.val + 1)

/-- Count one free value as drawn. -/
def State.drawn (s : State) : State := { s with draws := s.draws + 1 }

/-- The single a result is, a NaN being drawn, and the state after the draw. -/
def State.settleSingle (s : State) : FpResult → Word × State
  | .pattern v => (BitVec.ofNat 32 v, s)
  | .anyNan => (freeNan32 s.draws, s.drawn)

/-- The double a result is, a NaN being drawn, and the state after the draw. -/
def State.settleDouble (s : State) : FpResult → DWord × State
  | .pattern v => (BitVec.ofNat 64 v, s)
  | .anyNan => (freeNan64 s.draws, s.drawn)

/-- The integer a conversion gives, one without a stated value being drawn (also for R0, log entry 18),
and the state after. -/
def State.settleInt (s : State) : Option Word → Word × State
  | some v => (v, s)
  | none => (Config.freeInt s.draws, s.drawn)

/-- `f[d] <- x`, `x` settled (42_fp_arith_convert.md R148). -/
def State.putSingle (s : State) (fd : RegNum) (x : FpResult) : State :=
  (s.settleSingle x).2.writeF fd (s.settleSingle x).1

/-- `dreg(d) <- x`, `x` settled (42_fp_arith_convert.md R148). -/
def State.putDouble (s : State) (p : Pair) (x : FpResult) : State :=
  (s.settleDouble x).2.writePair p (s.settleDouble x).1

/-- `x[d] <- x`, `x` settled (42_fp_arith_convert.md R140, R148). -/
def State.putInt (s : State) (rd : RegNum) (x : Option Word) : State :=
  (s.settleInt x).2.writeR rd (s.settleInt x).1

end Sys2Proof.Machine
end

