-- ==== Sys2Proof/Machine/Shapes.lean ====
section
/-! DEFINITION. The shapes the meanings share: which operands are read, in which order the checks come
(60_exceptions.md R305), what is written, and pc. Every operand is read before anything is written
(10_state.md R15), and whatever its *written* mark says (log entry 2). -/

namespace Sys2Proof.Machine

/-- `x[d] <- op(x[s], x[c])` (40_int_register.md R100). -/
def regReg (op : Word → Word → Word) (rd rs rc : RegNum) (s : State) : StepOutcome :=
  .next (s.writeR rd (op (s.readR rs) (s.readR rc))).advance

/-- `x[d] <- op(x[s], x[c])` with a fault when `x[c]` is zero (43_int_muldiv.md R150). -/
def regRegDivide (op : Word → Word → Word) (rd rs rc : RegNum) (s : State) : StepOutcome :=
  if s.readR rc = 0 then .fault .divideByZero
  else .next (s.writeR rd (op (s.readR rs) (s.readR rc))).advance

/-- `x[d] <- op(x[s])`, the immediate being part of `op` (46_int_immediate.md R200). -/
def regImm (op : Word → Word) (rd rs : RegNum) (s : State) : StepOutcome :=
  .next (s.writeR rd (op (s.readR rs))).advance

/-- `f[d] <- op(f[s], f[c])` (42_fp_arith_convert.md R148). -/
def singleSingle (op : Word → Word → FpResult) (fd fs fc : RegNum) (s : State) : StepOutcome :=
  .next (s.putSingle fd (op (s.readF fs) (s.readF fc))).advance

/-- `dreg(d) <- op(dreg(s), dreg(c))`, the three fields checked first (42_fp_arith_convert.md R148). -/
def doubleDouble (op : DWord → DWord → FpResult) (dd ds dc : RegNum) (s : State) : StepOutcome :=
  withOperand (s.pair dd) fun pd =>
  withOperand (s.pair ds) fun ps =>
  withOperand (s.pair dc) fun pc =>
  .next (s.putDouble pd (op (s.readPair ps) (s.readPair pc))).advance

/-- `fpsr <- holds(cmp32(f[s], f[c]))` (44_fp_compare.md R160). -/
def compareSingle (holds : FpOrder → Bool) (fs fc : RegNum) (s : State) : StepOutcome :=
  .next (s.writeFpsr (holds (fpCmp32 (s.readF fs) (s.readF fc)))).advance

/-- `fpsr <- holds(cmp64(dreg(s), dreg(c)))`, both fields checked first (44_fp_compare.md R160). -/
def compareDouble (holds : FpOrder → Bool) (ds dc : RegNum) (s : State) : StepOutcome :=
  withOperand (s.pair ds) fun ps =>
  withOperand (s.pair dc) fun pc =>
  .next (s.writeFpsr (holds (fpCmp64 (s.readPair ps) (s.readPair pc)))).advance

/-- `x[d] <- ext(MemRead(ea, n))` (48_loads_stores.md R244, R245). -/
def loadInt (n : Nat) (ext : BitVec (8 * n) → Word) (rd rs : RegNum) (imm : Imm16) (s : State) :
    StepOutcome :=
  withOperand (s.memRead (s.readAddress rs imm) n) fun v =>
  .next (s.writeR rd (ext v)).advance

/-- `MemWrite(ea, n, cut(x[d]))` (48_loads_stores.md R244, R245). -/
def storeInt (n : Nat) (cut : Word → BitVec (8 * n)) (rd rs : RegNum) (imm : Imm16) (s : State) :
    StepOutcome :=
  withOperand (s.memWrite (s.readAddress rs imm) n (cut (s.readR rd))) fun t =>
  .next t.advance

/-- A branch: to `A + 4 + s(imm)` when taken, else on at `A + 4` (45_control_transfer.md R180). -/
def branch (taken : Bool) (imm : Imm16) (s : State) : StepOutcome :=
  if taken then .next (s.jumpTo (s.branchTarget imm)) else .next s.advance

end Sys2Proof.Machine
end

