-- ==== Sys2Proof/Machine/Control.lean ====
section
/-! DEFINITION. The control transfers (45_control_transfer.md R180 to R193). There are no delay slots (R189) and no
target is checked (R191). -/

namespace Sys2Proof.Machine

/-- J, jump (R181). -/
def execJ (dest : Dest26) (s : State) : StepOutcome :=
  .next (s.jumpTo (s.jumpTarget dest))

/-- JAL, jump and link to R31 (R182). -/
def execJal (dest : Dest26) (s : State) : StepOutcome :=
  .next ((s.writeR 31 s.linkValue).jumpTo (s.jumpTarget dest))

/-- BEQZ, branch if equal to zero (R183). -/
def execBeqz (rs : RegNum) (imm : Imm16) (s : State) : StepOutcome :=
  branch (decide (s.readR rs = 0)) imm s

/-- BNEZ, branch if not equal to zero (R184). -/
def execBnez (rs : RegNum) (imm : Imm16) (s : State) : StepOutcome :=
  branch (decide (s.readR rs ≠ 0)) imm s

/-- BFPT, branch if fpsr is set (R185). -/
def execBfpt (imm : Imm16) (s : State) : StepOutcome :=
  branch s.readFpsr imm s

/-- BFPF, branch if fpsr is not set (R186). -/
def execBfpf (imm : Imm16) (s : State) : StepOutcome :=
  branch (!s.readFpsr) imm s

/-- JR, jump to the address in a register, no bit cleared (R187). -/
def execJr (rs : RegNum) (s : State) : StepOutcome :=
  .next (s.jumpTo (s.readR rs))

/-- JALR, jump to the old value of the register and link to R31 (R188, 10_state.md R15). -/
def execJalr (rs : RegNum) (s : State) : StepOutcome :=
  .next ((s.writeR 31 s.linkValue).jumpTo (s.readR rs))

end Sys2Proof.Machine
end

