-- ==== Sys2Proof/Machine/FpArith.lean ====
section
/-! DEFINITION. Floating-point arithmetic and conversions (42_fp_arith_convert.md R130 to R148). None of them traps or sets a
flag (R147). -/

namespace Sys2Proof.Machine

/-- ADDF, add single (R132). -/
def execAddf (fd fs fc : RegNum) (s : State) : StepOutcome :=
  singleSingle fpAdd32 fd fs fc s

/-- SUBF, subtract single (R133). -/
def execSubf (fd fs fc : RegNum) (s : State) : StepOutcome :=
  singleSingle fpSub32 fd fs fc s

/-- MULTF, multiply single (R134). -/
def execMultf (fd fs fc : RegNum) (s : State) : StepOutcome :=
  singleSingle fpMul32 fd fs fc s

/-- DIVF, divide single (R135). -/
def execDivf (fd fs fc : RegNum) (s : State) : StepOutcome :=
  singleSingle fpDiv32 fd fs fc s

/-- ADDD, add double (R136). -/
def execAddd (dd ds dc : RegNum) (s : State) : StepOutcome :=
  doubleDouble fpAdd64 dd ds dc s

/-- SUBD, subtract double (R137). -/
def execSubd (dd ds dc : RegNum) (s : State) : StepOutcome :=
  doubleDouble fpSub64 dd ds dc s

/-- MULTD, multiply double (R138). -/
def execMultd (dd ds dc : RegNum) (s : State) : StepOutcome :=
  doubleDouble fpMul64 dd ds dc s

/-- DIVD, divide double (R139). -/
def execDivd (dd ds dc : RegNum) (s : State) : StepOutcome :=
  doubleDouble fpDiv64 dd ds dc s

/-- CVTF2D, single to double, exact (R141). -/
def execCvtf2d (dd fs : RegNum) (s : State) : StepOutcome :=
  withOperand (s.pair dd) fun pd =>
  .next (s.putDouble pd (fpF2D (s.readF fs))).advance

/-- CVTF2I, single to signed integer, toward zero; any value where no integer is stated (R142, R140). -/
def execCvtf2i (rd fs : RegNum) (s : State) : StepOutcome :=
  .next (s.putInt rd (fpF2I (s.readF fs))).advance

/-- CVTD2F, double to single, rounded to nearest even (R143). -/
def execCvtd2f (fd ds : RegNum) (s : State) : StepOutcome :=
  withOperand (s.pair ds) fun ps =>
  .next (s.putSingle fd (fpD2F (s.readPair ps))).advance

/-- CVTD2I, double to signed integer, toward zero; any value where no integer is stated (R144, R140). -/
def execCvtd2i (rd ds : RegNum) (s : State) : StepOutcome :=
  withOperand (s.pair ds) fun ps =>
  .next (s.putInt rd (fpD2I (s.readPair ps))).advance

/-- CVTI2F, signed integer to single, rounded to nearest even (R145). -/
def execCvti2f (fd rs : RegNum) (s : State) : StepOutcome :=
  .next (s.putSingle fd (fpI2F (s.readR rs))).advance

/-- CVTI2D, signed integer to double, exact (R146). -/
def execCvti2d (dd rs : RegNum) (s : State) : StepOutcome :=
  withOperand (s.pair dd) fun pd =>
  .next (s.putDouble pd (fpI2D (s.readR rs))).advance

end Sys2Proof.Machine
end

