-- ==== Sys2Proof/Machine/FpCompare.lean ====
section
/-! DEFINITION. Floating-point comparisons: the only writers of fpsr (44_fp_compare.md R160 to R173). -/

namespace Sys2Proof.Machine

/-- EQF, equal, single (R161). -/
def execEqf (fs fc : RegNum) (s : State) : StepOutcome :=
  compareSingle FpOrder.holdsEq fs fc s

/-- NEF, not equal, single (R162). -/
def execNef (fs fc : RegNum) (s : State) : StepOutcome :=
  compareSingle FpOrder.holdsNe fs fc s

/-- LTF, less than, single (R163). -/
def execLtf (fs fc : RegNum) (s : State) : StepOutcome :=
  compareSingle FpOrder.holdsLt fs fc s

/-- GTF, greater than, single (R164). -/
def execGtf (fs fc : RegNum) (s : State) : StepOutcome :=
  compareSingle FpOrder.holdsGt fs fc s

/-- LEF, less or equal, single (R165). -/
def execLef (fs fc : RegNum) (s : State) : StepOutcome :=
  compareSingle FpOrder.holdsLe fs fc s

/-- GEF, greater or equal, single (R166). -/
def execGef (fs fc : RegNum) (s : State) : StepOutcome :=
  compareSingle FpOrder.holdsGe fs fc s

/-- EQD, equal, double (R167). -/
def execEqd (ds dc : RegNum) (s : State) : StepOutcome :=
  compareDouble FpOrder.holdsEq ds dc s

/-- NED, not equal, double (R168). -/
def execNed (ds dc : RegNum) (s : State) : StepOutcome :=
  compareDouble FpOrder.holdsNe ds dc s

/-- LTD, less than, double (R169). -/
def execLtd (ds dc : RegNum) (s : State) : StepOutcome :=
  compareDouble FpOrder.holdsLt ds dc s

/-- GTD, greater than, double (R170). -/
def execGtd (ds dc : RegNum) (s : State) : StepOutcome :=
  compareDouble FpOrder.holdsGt ds dc s

/-- LED, less or equal, double (R171). -/
def execLed (ds dc : RegNum) (s : State) : StepOutcome :=
  compareDouble FpOrder.holdsLe ds dc s

/-- GED, greater or equal, double (R172). -/
def execGed (ds dc : RegNum) (s : State) : StepOutcome :=
  compareDouble FpOrder.holdsGe ds dc s

end Sys2Proof.Machine
end

