-- ==== Sys2Proof/Machine/IntImm.lean ====
section
/-! DEFINITION. The integer instructions with an immediate operand (46_int_immediate.md R200 to R217). -/

namespace Sys2Proof.Machine

/-- ADDI, add the sign-extended immediate (R201). -/
def execAddi (rd rs : RegNum) (imm : Imm16) (s : State) : StepOutcome :=
  regImm (fun a => addWord a (sextImm imm)) rd rs s

/-- ADDUI, add the zero-extended immediate (R202). -/
def execAddui (rd rs : RegNum) (imm : Imm16) (s : State) : StepOutcome :=
  regImm (fun a => addWord a (zextImm imm)) rd rs s

/-- SUBI, subtract the sign-extended immediate (R203). -/
def execSubi (rd rs : RegNum) (imm : Imm16) (s : State) : StepOutcome :=
  regImm (fun a => subWord a (sextImm imm)) rd rs s

/-- SUBUI, subtract the zero-extended immediate (R204). -/
def execSubui (rd rs : RegNum) (imm : Imm16) (s : State) : StepOutcome :=
  regImm (fun a => subWord a (zextImm imm)) rd rs s

/-- ANDI, and with the zero-extended immediate (R205). -/
def execAndi (rd rs : RegNum) (imm : Imm16) (s : State) : StepOutcome :=
  regImm (fun a => andWord a (zextImm imm)) rd rs s

/-- ORI, or with the zero-extended immediate (R206). -/
def execOri (rd rs : RegNum) (imm : Imm16) (s : State) : StepOutcome :=
  regImm (fun a => orWord a (zextImm imm)) rd rs s

/-- XORI, exclusive or with the zero-extended immediate (R207). -/
def execXori (rd rs : RegNum) (imm : Imm16) (s : State) : StepOutcome :=
  regImm (fun a => xorWord a (zextImm imm)) rd rs s

/-- LHI, the immediate in the high half, zeros below (R208). No register is read. -/
def execLhi (rd : RegNum) (imm : Imm16) (s : State) : StepOutcome :=
  .next (s.writeR rd (highImm imm)).advance

/-- SLLI, shift left logical by `imm[4:0]` (R209). -/
def execSlli (rd rs : RegNum) (imm : Imm16) (s : State) : StepOutcome :=
  regImm (fun a => shiftLeft a (immShiftAmount imm)) rd rs s

/-- SRLI, shift right logical by `imm[4:0]` (R210). -/
def execSrli (rd rs : RegNum) (imm : Imm16) (s : State) : StepOutcome :=
  regImm (fun a => shiftRightLogical a (immShiftAmount imm)) rd rs s

/-- SRAI, shift right arithmetic by `imm[4:0]` (R211). -/
def execSrai (rd rs : RegNum) (imm : Imm16) (s : State) : StepOutcome :=
  regImm (fun a => shiftRightArith a (immShiftAmount imm)) rd rs s

/-- SEQI, set on equal, immediate sign-extended, comparison signed (R212). -/
def execSeqi (rd rs : RegNum) (imm : Imm16) (s : State) : StepOutcome :=
  regImm (fun a => setEq a (sextImm imm)) rd rs s

/-- SNEI, set on not equal, immediate sign-extended, comparison signed (R213). -/
def execSnei (rd rs : RegNum) (imm : Imm16) (s : State) : StepOutcome :=
  regImm (fun a => setNe a (sextImm imm)) rd rs s

/-- SLTI, set on less than, immediate sign-extended, comparison signed (R214). -/
def execSlti (rd rs : RegNum) (imm : Imm16) (s : State) : StepOutcome :=
  regImm (fun a => setLt a (sextImm imm)) rd rs s

/-- SGTI, set on greater than, immediate sign-extended, comparison signed (R215). -/
def execSgti (rd rs : RegNum) (imm : Imm16) (s : State) : StepOutcome :=
  regImm (fun a => setGt a (sextImm imm)) rd rs s

/-- SLEI, set on less or equal, immediate sign-extended, comparison signed (R216). -/
def execSlei (rd rs : RegNum) (imm : Imm16) (s : State) : StepOutcome :=
  regImm (fun a => setLe a (sextImm imm)) rd rs s

/-- SGEI, set on greater or equal, immediate sign-extended, comparison signed (R217). -/
def execSgei (rd rs : RegNum) (imm : Imm16) (s : State) : StepOutcome :=
  regImm (fun a => setGe a (sextImm imm)) rd rs s

end Sys2Proof.Machine
end

