-- ==== Sys2Proof/Machine/IntReg.lean ====
section
/-! DEFINITION. The integer register-register instructions (40_int_register.md R100 to R119). -/

namespace Sys2Proof.Machine

/-- SLL, shift left logical (R101). -/
def execSll (rd rs rc : RegNum) (s : State) : StepOutcome :=
  regReg (fun a c => shiftLeft a (shiftAmount c)) rd rs rc s

/-- SRL, shift right logical (R102). -/
def execSrl (rd rs rc : RegNum) (s : State) : StepOutcome :=
  regReg (fun a c => shiftRightLogical a (shiftAmount c)) rd rs rc s

/-- SRA, shift right arithmetic (R103). -/
def execSra (rd rs rc : RegNum) (s : State) : StepOutcome :=
  regReg (fun a c => shiftRightArith a (shiftAmount c)) rd rs rc s

/-- ADD, add signed; no overflow event (R104). -/
def execAdd (rd rs rc : RegNum) (s : State) : StepOutcome :=
  regReg addWord rd rs rc s

/-- ADDU, add unsigned, bit for bit the result of ADD (R105). -/
def execAddu (rd rs rc : RegNum) (s : State) : StepOutcome :=
  regReg addWord rd rs rc s

/-- SUB, subtract signed; `Rs` is the minuend (R106). -/
def execSub (rd rs rc : RegNum) (s : State) : StepOutcome :=
  regReg subWord rd rs rc s

/-- SUBU, subtract unsigned, bit for bit the result of SUB (R107). -/
def execSubu (rd rs rc : RegNum) (s : State) : StepOutcome :=
  regReg subWord rd rs rc s

/-- AND, bitwise and (R108). -/
def execAnd (rd rs rc : RegNum) (s : State) : StepOutcome :=
  regReg andWord rd rs rc s

/-- OR, bitwise or (R109). -/
def execOr (rd rs rc : RegNum) (s : State) : StepOutcome :=
  regReg orWord rd rs rc s

/-- XOR, bitwise exclusive or (R110). -/
def execXor (rd rs rc : RegNum) (s : State) : StepOutcome :=
  regReg xorWord rd rs rc s

/-- SEQ, set equal (R111). -/
def execSeq (rd rs rc : RegNum) (s : State) : StepOutcome :=
  regReg setEq rd rs rc s

/-- SNE, set not equal (R112). -/
def execSne (rd rs rc : RegNum) (s : State) : StepOutcome :=
  regReg setNe rd rs rc s

/-- SLT, set less than (R113). -/
def execSlt (rd rs rc : RegNum) (s : State) : StepOutcome :=
  regReg setLt rd rs rc s

/-- SGT, set greater than (R114). -/
def execSgt (rd rs rc : RegNum) (s : State) : StepOutcome :=
  regReg setGt rd rs rc s

/-- SLE, set less or equal (R115). -/
def execSle (rd rs rc : RegNum) (s : State) : StepOutcome :=
  regReg setLe rd rs rc s

/-- SGE, set greater or equal (R116). -/
def execSge (rd rs rc : RegNum) (s : State) : StepOutcome :=
  regReg setGe rd rs rc s

end Sys2Proof.Machine
end

