-- ==== Sys2Proof/Machine/LoadStore.lean ====
section
/-! DEFINITION. Loads and stores (48_loads_stores.md R230 to R246). The register operand is `Xd`, the base `Xs` (R243). -/

namespace Sys2Proof.Machine

/-- LB, load byte, sign-extended (R231). -/
def execLb (rd rs : RegNum) (imm : Imm16) (s : State) : StepOutcome :=
  loadInt 1 (BitVec.signExtend 32) rd rs imm s

/-- LH, load half word, sign-extended (R232). -/
def execLh (rd rs : RegNum) (imm : Imm16) (s : State) : StepOutcome :=
  loadInt 2 (BitVec.signExtend 32) rd rs imm s

/-- LW, load word (R233). -/
def execLw (rd rs : RegNum) (imm : Imm16) (s : State) : StepOutcome :=
  loadInt 4 (fun v => v) rd rs imm s

/-- LBU, load byte, zero-extended (R234). -/
def execLbu (rd rs : RegNum) (imm : Imm16) (s : State) : StepOutcome :=
  loadInt 1 (BitVec.zeroExtend 32) rd rs imm s

/-- LHU, load half word, zero-extended (R235). -/
def execLhu (rd rs : RegNum) (imm : Imm16) (s : State) : StepOutcome :=
  loadInt 2 (BitVec.zeroExtend 32) rd rs imm s

/-- LF, load single, bits unchanged (R236). -/
def execLf (fd rs : RegNum) (imm : Imm16) (s : State) : StepOutcome :=
  withOperand (s.memRead (s.readAddress rs imm) 4) fun v =>
  .next (s.writeF fd v).advance

/-- LD, load double: one 8-byte access, the word at the lower address to the even register (R237). -/
def execLd (dd rs : RegNum) (imm : Imm16) (s : State) : StepOutcome :=
  withOperand (s.pair dd) fun pd =>
  withOperand (s.memRead (s.readAddress rs imm) 8) fun v =>
  .next (s.writePair pd v).advance

/-- SB, store byte (R238). -/
def execSb (rd rs : RegNum) (imm : Imm16) (s : State) : StepOutcome :=
  storeInt 1 (BitVec.truncate 8) rd rs imm s

/-- SH, store half word (R239). -/
def execSh (rd rs : RegNum) (imm : Imm16) (s : State) : StepOutcome :=
  storeInt 2 (BitVec.truncate 16) rd rs imm s

/-- SW, store word (R240). -/
def execSw (rd rs : RegNum) (imm : Imm16) (s : State) : StepOutcome :=
  storeInt 4 (fun v => v) rd rs imm s

/-- SF, store single, bits unchanged (R241). -/
def execSf (fd rs : RegNum) (imm : Imm16) (s : State) : StepOutcome :=
  withOperand (s.memWrite (s.readAddress rs imm) 4 (s.readF fd)) fun t =>
  .next t.advance

/-- SD, store double: one 8-byte access, the even register to the lower address (R242). -/
def execSd (dd rs : RegNum) (imm : Imm16) (s : State) : StepOutcome :=
  withOperand (s.pair dd) fun pd =>
  withOperand (s.memWrite (s.readAddress rs imm) 8 (s.readPair pd)) fun t =>
  .next t.advance

end Sys2Proof.Machine
end

