-- ==== Sys2Proof/Machine/Moves.lean ====
section
/-! DEFINITION. The register moves (41_moves.md R120 to R126). -/

namespace Sys2Proof.Machine

/-- MOVI2S, to the special register (R120). -/
def execMovi2s (rs : RegNum) (s : State) : StepOutcome :=
  .next (s.writeSpecial (s.readR rs)).advance

/-- MOVS2I, from the special register (R121). -/
def execMovs2i (rd : RegNum) (s : State) : StepOutcome :=
  .next (s.writeR rd s.readSpecial).advance

/-- MOVF, a single copied bit for bit (R122). -/
def execMovf (fd fs : RegNum) (s : State) : StepOutcome :=
  .next (s.writeF fd (s.readF fs)).advance

/-- MOVD, a double copied bit for bit; both fields are checked before any read (R123). -/
def execMovd (dd ds : RegNum) (s : State) : StepOutcome :=
  withOperand (s.pair dd) fun pd =>
  withOperand (s.pair ds) fun ps =>
  .next (s.writePair pd (s.readPair ps)).advance

/-- MOVFP2I, the bits of a single to an integer register, no conversion (R124). -/
def execMovfp2i (rd fs : RegNum) (s : State) : StepOutcome :=
  .next (s.writeR rd (s.readF fs)).advance

/-- MOVI2FP, the bits of an integer register to a single, no conversion (R125). -/
def execMovi2fp (fd rs : RegNum) (s : State) : StepOutcome :=
  .next (s.writeF fd (s.readR rs)).advance

end Sys2Proof.Machine
end

