-- ==== Sys2Proof/Machine/MulDiv.lean ====
section
/-! DEFINITION. Integer multiply and divide (43_int_muldiv.md R150 to R154). -/

namespace Sys2Proof.Machine

/-- MULT, low 32 bits of the signed product (R151). -/
def execMult (rd rs rc : RegNum) (s : State) : StepOutcome :=
  regReg mulSigned rd rs rc s

/-- DIV, signed quotient toward zero (R152). -/
def execDiv (rd rs rc : RegNum) (s : State) : StepOutcome :=
  regRegDivide divSigned rd rs rc s

/-- MULTU, low 32 bits of the unsigned product (R153). -/
def execMultu (rd rs rc : RegNum) (s : State) : StepOutcome :=
  regReg mulUnsigned rd rs rc s

/-- DIVU, unsigned quotient (R154). -/
def execDivu (rd rs rc : RegNum) (s : State) : StepOutcome :=
  regRegDivide divUnsigned rd rs rc s

end Sys2Proof.Machine
end

