-- ==== Sys2Proof/Machine/TrapRfe.lean ====
section
/-! DEFINITION. RFE and TRAP (47_trap_rfe.md R220 to R222). -/

namespace Sys2Proof.Machine

/-- RFE, return from trap (R220). -/
def execRfe (s : State) : StepOutcome :=
  s.returnFromTrap

/-- TRAP, take the trap whose number is the whole 26-bit field (R221). -/
def execTrap (trap : Dest26) (s : State) : StepOutcome :=
  s.takeTrap trap

end Sys2Proof.Machine
end

