-- ==== Sys2Proof/Machine/Dispatch.lean ====
section
/-! DEFINITION. One arm per instruction: its meaning. `s.pc` is the address `A` of the instruction. -/

namespace Sys2Proof.Machine

open Sys2Proof

def exec (i : Instr) (s : State) : Host.Outcome State Fault Refusal :=
  match i with
  | .sll rd rs rc => Sys2Proof.Machine.execSll rd rs rc s
  | .srl rd rs rc => Sys2Proof.Machine.execSrl rd rs rc s
  | .sra rd rs rc => Sys2Proof.Machine.execSra rd rs rc s
  | .add rd rs rc => Sys2Proof.Machine.execAdd rd rs rc s
  | .addu rd rs rc => Sys2Proof.Machine.execAddu rd rs rc s
  | .sub rd rs rc => Sys2Proof.Machine.execSub rd rs rc s
  | .subu rd rs rc => Sys2Proof.Machine.execSubu rd rs rc s
  | .and rd rs rc => Sys2Proof.Machine.execAnd rd rs rc s
  | .or rd rs rc => Sys2Proof.Machine.execOr rd rs rc s
  | .xor rd rs rc => Sys2Proof.Machine.execXor rd rs rc s
  | .seq rd rs rc => Sys2Proof.Machine.execSeq rd rs rc s
  | .sne rd rs rc => Sys2Proof.Machine.execSne rd rs rc s
  | .slt rd rs rc => Sys2Proof.Machine.execSlt rd rs rc s
  | .sgt rd rs rc => Sys2Proof.Machine.execSgt rd rs rc s
  | .sle rd rs rc => Sys2Proof.Machine.execSle rd rs rc s
  | .sge rd rs rc => Sys2Proof.Machine.execSge rd rs rc s
  | .movi2s rs => Sys2Proof.Machine.execMovi2s rs s
  | .movs2i rd => Sys2Proof.Machine.execMovs2i rd s
  | .movf fd fs => Sys2Proof.Machine.execMovf fd fs s
  | .movd dd ds => Sys2Proof.Machine.execMovd dd ds s
  | .movfp2i rd fs => Sys2Proof.Machine.execMovfp2i rd fs s
  | .movi2fp fd rs => Sys2Proof.Machine.execMovi2fp fd rs s
  | .addf fd fs fc => Sys2Proof.Machine.execAddf fd fs fc s
  | .subf fd fs fc => Sys2Proof.Machine.execSubf fd fs fc s
  | .multf fd fs fc => Sys2Proof.Machine.execMultf fd fs fc s
  | .divf fd fs fc => Sys2Proof.Machine.execDivf fd fs fc s
  | .addd dd ds dc => Sys2Proof.Machine.execAddd dd ds dc s
  | .subd dd ds dc => Sys2Proof.Machine.execSubd dd ds dc s
  | .multd dd ds dc => Sys2Proof.Machine.execMultd dd ds dc s
  | .divd dd ds dc => Sys2Proof.Machine.execDivd dd ds dc s
  | .cvtf2d dd fs => Sys2Proof.Machine.execCvtf2d dd fs s
  | .cvtf2i rd fs => Sys2Proof.Machine.execCvtf2i rd fs s
  | .cvtd2f fd ds => Sys2Proof.Machine.execCvtd2f fd ds s
  | .cvtd2i rd ds => Sys2Proof.Machine.execCvtd2i rd ds s
  | .cvti2f fd rs => Sys2Proof.Machine.execCvti2f fd rs s
  | .cvti2d dd rs => Sys2Proof.Machine.execCvti2d dd rs s
  | .mult rd rs rc => Sys2Proof.Machine.execMult rd rs rc s
  | .div rd rs rc => Sys2Proof.Machine.execDiv rd rs rc s
  | .eqf fs fc => Sys2Proof.Machine.execEqf fs fc s
  | .nef fs fc => Sys2Proof.Machine.execNef fs fc s
  | .ltf fs fc => Sys2Proof.Machine.execLtf fs fc s
  | .gtf fs fc => Sys2Proof.Machine.execGtf fs fc s
  | .lef fs fc => Sys2Proof.Machine.execLef fs fc s
  | .gef fs fc => Sys2Proof.Machine.execGef fs fc s
  | .multu rd rs rc => Sys2Proof.Machine.execMultu rd rs rc s
  | .divu rd rs rc => Sys2Proof.Machine.execDivu rd rs rc s
  | .eqd ds dc => Sys2Proof.Machine.execEqd ds dc s
  | .ned ds dc => Sys2Proof.Machine.execNed ds dc s
  | .ltd ds dc => Sys2Proof.Machine.execLtd ds dc s
  | .gtd ds dc => Sys2Proof.Machine.execGtd ds dc s
  | .led ds dc => Sys2Proof.Machine.execLed ds dc s
  | .ged ds dc => Sys2Proof.Machine.execGed ds dc s
  | .j dest => Sys2Proof.Machine.execJ dest s
  | .jal dest => Sys2Proof.Machine.execJal dest s
  | .beqz rs imm => Sys2Proof.Machine.execBeqz rs imm s
  | .bnez rs imm => Sys2Proof.Machine.execBnez rs imm s
  | .bfpt imm => Sys2Proof.Machine.execBfpt imm s
  | .bfpf imm => Sys2Proof.Machine.execBfpf imm s
  | .addi rd rs imm => Sys2Proof.Machine.execAddi rd rs imm s
  | .addui rd rs imm => Sys2Proof.Machine.execAddui rd rs imm s
  | .subi rd rs imm => Sys2Proof.Machine.execSubi rd rs imm s
  | .subui rd rs imm => Sys2Proof.Machine.execSubui rd rs imm s
  | .andi rd rs imm => Sys2Proof.Machine.execAndi rd rs imm s
  | .ori rd rs imm => Sys2Proof.Machine.execOri rd rs imm s
  | .xori rd rs imm => Sys2Proof.Machine.execXori rd rs imm s
  | .lhi rd imm => Sys2Proof.Machine.execLhi rd imm s
  | .rfe => Sys2Proof.Machine.execRfe s
  | .trap trap => Sys2Proof.Machine.execTrap trap s
  | .jr rs => Sys2Proof.Machine.execJr rs s
  | .jalr rs => Sys2Proof.Machine.execJalr rs s
  | .slli rd rs imm => Sys2Proof.Machine.execSlli rd rs imm s
  | .srli rd rs imm => Sys2Proof.Machine.execSrli rd rs imm s
  | .srai rd rs imm => Sys2Proof.Machine.execSrai rd rs imm s
  | .seqi rd rs imm => Sys2Proof.Machine.execSeqi rd rs imm s
  | .snei rd rs imm => Sys2Proof.Machine.execSnei rd rs imm s
  | .slti rd rs imm => Sys2Proof.Machine.execSlti rd rs imm s
  | .sgti rd rs imm => Sys2Proof.Machine.execSgti rd rs imm s
  | .slei rd rs imm => Sys2Proof.Machine.execSlei rd rs imm s
  | .sgei rd rs imm => Sys2Proof.Machine.execSgei rd rs imm s
  | .lb rd rs imm => Sys2Proof.Machine.execLb rd rs imm s
  | .lh rd rs imm => Sys2Proof.Machine.execLh rd rs imm s
  | .lw rd rs imm => Sys2Proof.Machine.execLw rd rs imm s
  | .lbu rd rs imm => Sys2Proof.Machine.execLbu rd rs imm s
  | .lhu rd rs imm => Sys2Proof.Machine.execLhu rd rs imm s
  | .lf fd rs imm => Sys2Proof.Machine.execLf fd rs imm s
  | .ld dd rs imm => Sys2Proof.Machine.execLd dd rs imm s
  | .sb rd rs imm => Sys2Proof.Machine.execSb rd rs imm s
  | .sh rd rs imm => Sys2Proof.Machine.execSh rd rs imm s
  | .sw rd rs imm => Sys2Proof.Machine.execSw rd rs imm s
  | .sf fd rs imm => Sys2Proof.Machine.execSf fd rs imm s
  | .sd dd rs imm => Sys2Proof.Machine.execSd dd rs imm s

end Sys2Proof.Machine
end

