-- ==== Sys2Proof/Machine/Checked.lean ====
section
/-! DEFINITION. What an instruction reads, and the check of its operand reads: the fourth stage of a step, of
which the launch decides whether it is made (10_state.md R14, 60_exceptions.md R305, log entry 2). -/

namespace Sys2Proof

/-- The fields in D operand positions (30_encoding.md R60). -/
def Instr.doubleFields : Instr → List RegNum
  | .movd dd ds => [dd, ds]
  | .addd dd ds dc | .subd dd ds dc | .multd dd ds dc | .divd dd ds dc => [dd, ds, dc]
  | .cvtf2d dd _ | .cvti2d dd _ => [dd]
  | .cvtd2f _ ds | .cvtd2i _ ds => [ds]
  | .eqd ds dc | .ned ds dc | .ltd ds dc | .gtd ds dc | .led ds dc | .ged ds dc => [ds, dc]
  | .ld dd _ _ | .sd dd _ _ => [dd]
  | _ => []

/-- A register an instruction reads. -/
inductive Source where
  | int (i : RegNum)
  | single (i : RegNum)
  | double (k : RegNum)
  | fpsr
  | special
deriving DecidableEq, Repr

/-- What an instruction reads (the parameter lists of 40_int_register.md to 48_loads_stores.md). -/
def Instr.sources : Instr → List Source
  | .sll _ rs rc | .srl _ rs rc | .sra _ rs rc | .add _ rs rc | .addu _ rs rc | .sub _ rs rc
    | .subu _ rs rc | .and _ rs rc | .or _ rs rc | .xor _ rs rc | .seq _ rs rc | .sne _ rs rc
    | .slt _ rs rc | .sgt _ rs rc | .sle _ rs rc | .sge _ rs rc => [.int rs, .int rc]
  | .mult _ rs rc | .div _ rs rc | .multu _ rs rc | .divu _ rs rc => [.int rs, .int rc]
  | .movi2s rs | .movi2fp _ rs | .cvti2f _ rs | .cvti2d _ rs => [.int rs]
  | .movs2i _ => [.special]
  | .movf _ fs | .movfp2i _ fs | .cvtf2d _ fs | .cvtf2i _ fs => [.single fs]
  | .movd _ ds | .cvtd2f _ ds | .cvtd2i _ ds => [.double ds]
  | .addf _ fs fc | .subf _ fs fc | .multf _ fs fc | .divf _ fs fc => [.single fs, .single fc]
  | .addd _ ds dc | .subd _ ds dc | .multd _ ds dc | .divd _ ds dc => [.double ds, .double dc]
  | .eqf fs fc | .nef fs fc | .ltf fs fc | .gtf fs fc | .lef fs fc | .gef fs fc => [.single fs, .single fc]
  | .eqd ds dc | .ned ds dc | .ltd ds dc | .gtd ds dc | .led ds dc | .ged ds dc => [.double ds, .double dc]
  | .j _ | .jal _ | .lhi _ _ | .rfe | .trap _ => []
  | .beqz rs _ | .bnez rs _ | .jr rs | .jalr rs => [.int rs]
  | .bfpt _ | .bfpf _ => [.fpsr]
  | .addi _ rs _ | .addui _ rs _ | .subi _ rs _ | .subui _ rs _ | .andi _ rs _ | .ori _ rs _
    | .xori _ rs _ | .slli _ rs _ | .srli _ rs _ | .srai _ rs _ | .seqi _ rs _ | .snei _ rs _
    | .slti _ rs _ | .sgti _ rs _ | .slei _ rs _ | .sgei _ rs _ => [.int rs]
  | .lb _ rs _ | .lh _ rs _ | .lw _ rs _ | .lbu _ rs _ | .lhu _ rs _ | .lf _ rs _ | .ld _ rs _ => [.int rs]
  | .sb rd rs _ | .sh rd rs _ | .sw rd rs _ => [.int rs, .int rd]
  | .sf fd rs _ => [.int rs, .single fd]
  | .sd dd rs _ => [.int rs, .double dd]

end Sys2Proof

namespace Sys2Proof.Machine

/-- Every D field of the instruction names a double register (10_state.md R18). -/
def State.namesDoubles (s : State) (i : Instr) : Bool := i.doubleFields.all s.params.dregField.names

/-- Something has written what is read; R0 counts as written, a double when both halves are (10_state.md R11,
R14, R18). -/
def State.hasWritten (s : State) : Source → Bool
  | .int i => i = 0 || (s.r.get i).written
  | .single i => (s.f.get i).written
  | .double k =>
    match s.pair k with
    | .ok p => (s.f.get p.hi).written && (s.f.get p.lo).written
    | .error _ => true
  | .fpsr => s.fpsr.written
  | .special => s.special.written

/-- The instruction reads a register nothing has written since reset, and the check of its D fields, which
comes first, lets it (10_state.md R14, 60_exceptions.md R305 (3), (4)). -/
def State.readsUnwritten (s : State) (i : Instr) : Bool :=
  s.namesDoubles i && i.sources.any fun x => !s.hasWritten x

/-- The check of the operand reads fails (60_exceptions.md R305 (4)). Only under the launch parameter `faults`;
else a read gives the value the register has held since reset (log entry 2). -/
def State.stopsUnwritten (s : State) (i : Instr) : Bool :=
  decide (s.params.unwritten = .faults) && s.readsUnwritten i

/-- An instruction, once decoded (60_exceptions.md R305 (3) to (5)). Where the check of its operand reads fails
it does nothing else, and the run ends as `faulted(UnwrittenRead, A)` (10_state.md R14, 60_exceptions.md R303);
the step answers that final state. -/
def execChecked (i : Instr) (s : State) : StepOutcome :=
  if s.stopsUnwritten i then .next (s.afterFault .unwrittenRead) else exec i s

end Sys2Proof.Machine
end

