-- ==== Sys2Proof/Machine/Step.lean ====
section
/-! DEFINITION. One step of the machine (70_reset_and_hazards.md R360), and the host's way to place an
instruction. -/

namespace Sys2Proof.Machine

/-- One step: nothing once the run has ended (R362, log entry 10), else fetch, decode, execute, with the checks in the
order of 60_exceptions.md R305 (R360). -/
def step (s : State) : Host.Outcome State Fault Refusal :=
  match s.status with
  | .halted _ => .next s
  | .faulted _ _ => .next s
  | .running =>
    match s.fetch with
    | .error k => .fault k
    | .ok w =>
      match decode w with
      | .error _ => .fault .reservedInstruction
      | .ok i => execChecked i s

/-- The step as the spec's run sees it, every outcome a state: a model fault leaves the final state of
60_exceptions.md R303 and 70_reset_and_hazards.md R362 (log entry 11). -/
def runStep (s : State) : State :=
  match step s with
  | .next t => t
  | .fault k => s.afterFault k.kind
  | .refused _ => s

/-- The host loads an instruction where the next step fetches: its four bytes at pc in memory order, as
bytes no store of the run has written (70_reset_and_hazards.md R352, 20_memory.md R45), the run not ended (DEDUCED, log entry 12). -/
def State.withFetchWord (s : State) (nbits w : Nat) : State :=
  let word : Word := BitVec.ofNat 32 (w % 2 ^ nbits)
  { s with
    mem := (((s.mem.write s.pc.toNat (byteOfWord word 0)).write (s.pc.toNat + 1) (byteOfWord word 1)).write
      (s.pc.toNat + 2) (byteOfWord word 2)).write (s.pc.toNat + 3) (byteOfWord word 3)
    modified := s.modified.filter fun b => decide (b < s.pc.toNat ∨ s.pc.toNat + 4 ≤ b)
    status := .running }

end Sys2Proof.Machine
end

