-- ==== Sys2Proof/Machine/Assembler.lean ====
section
/-! DEFINITION. The assembly language of 30_encoding.md R70 to R78: lines of text, the assembler, and the
canonical spelling of an instruction. No step uses it. DESIGN CHOICE where the spec is silent: log
entries 19 to 23. -/

namespace Sys2Proof.Machine

/-- Which register file a register name belongs to (30_encoding.md R72). -/
inductive RegFile where
  | int
  | single
  | double
deriving DecidableEq, Repr

/-- An operand as written (30_encoding.md R72 to R74). -/
inductive AsmOperand where
  /-- `R5`, `F5` or `D5`. -/
  | reg (file : RegFile) (n : Nat)
  /-- `#k`. -/
  | imm (k : Int)
  /-- `disp(Rbase)`. -/
  | mem (disp : Int) (base : Nat)
  /-- A label's name. -/
  | label (name : List Char)
deriving DecidableEq, Repr

/-- An instruction as written (30_encoding.md R71). -/
structure AsmInstr where
  mnemonic : List Char
  operands : List AsmOperand
deriving DecidableEq, Repr

/-- A line of source (30_encoding.md R71, R74, R75). -/
inductive AsmLine where
  | blank
  | label (name : List Char)
  | instr (i : AsmInstr)
deriving DecidableEq, Repr

/-- Why the assembler refuses a line (30_encoding.md R77, R78). -/
inductive AsmReject where
  | unknownMnemonic
  | badOperands
  | badRegister
  | badNumber
  | outOfRange
  | unknownLabel
deriving DecidableEq, Repr

/-- The ranges an immediate is checked against (30_encoding.md R78). -/
inductive ImmRange where
  | signed
  | unsigned
  | shift
deriving DecidableEq, Repr

/-- The operand lists of the table's Parameters column, in its order, with what they build
(30_encoding.md R56, R71, R76). -/
inductive AsmForm where
  | three (file : RegFile) (mk : RegNum → RegNum → RegNum → Instr)
  | two (first second : RegFile) (mk : RegNum → RegNum → Instr)
  | one (file : RegFile) (mk : RegNum → Instr)
  | imm (range : ImmRange) (mk : RegNum → RegNum → Imm16 → Instr)
  | high (mk : RegNum → Imm16 → Instr)
  | branchReg (mk : RegNum → Imm16 → Instr)
  | branch (mk : Imm16 → Instr)
  | jump (mk : Dest26 → Instr)
  | trap (mk : Dest26 → Instr)
  | none (i : Instr)
  | load (file : RegFile) (mk : RegNum → RegNum → Imm16 → Instr)
  | store (file : RegFile) (mk : RegNum → RegNum → Imm16 → Instr)

/-- The forms of the rows of opcode 00. -/
def asmTable00 : List (List Char × AsmForm) :=
  [("SLL".toList, .three .int .sll),
   ("SRL".toList, .three .int .srl),
   ("SRA".toList, .three .int .sra),
   ("ADD".toList, .three .int .add),
   ("ADDU".toList, .three .int .addu),
   ("SUB".toList, .three .int .sub),
   ("SUBU".toList, .three .int .subu),
   ("AND".toList, .three .int .and),
   ("OR".toList, .three .int .or),
   ("XOR".toList, .three .int .xor),
   ("SEQ".toList, .three .int .seq),
   ("SNE".toList, .three .int .sne),
   ("SLT".toList, .three .int .slt),
   ("SGT".toList, .three .int .sgt),
   ("SLE".toList, .three .int .sle),
   ("SGE".toList, .three .int .sge),
   ("MOVI2S".toList, .one .int .movi2s),
   ("MOVS2I".toList, .one .int .movs2i),
   ("MOVF".toList, .two .single .single .movf),
   ("MOVD".toList, .two .double .double .movd),
   ("MOVFP2I".toList, .two .int .single .movfp2i),
   ("MOVI2FP".toList, .two .single .int .movi2fp)]

/-- The forms of the rows of opcode 01. -/
def asmTable01 : List (List Char × AsmForm) :=
  [("ADDF".toList, .three .single .addf),
   ("SUBF".toList, .three .single .subf),
   ("MULTF".toList, .three .single .multf),
   ("DIVF".toList, .three .single .divf),
   ("ADDD".toList, .three .double .addd),
   ("SUBD".toList, .three .double .subd),
   ("MULTD".toList, .three .double .multd),
   ("DIVD".toList, .three .double .divd),
   ("CVTF2D".toList, .two .double .single .cvtf2d),
   ("CVTF2I".toList, .two .int .single .cvtf2i),
   ("CVTD2F".toList, .two .single .double .cvtd2f),
   ("CVTD2I".toList, .two .int .double .cvtd2i),
   ("CVTI2F".toList, .two .single .int .cvti2f),
   ("CVTI2D".toList, .two .double .int .cvti2d),
   ("MULT".toList, .three .int .mult),
   ("DIV".toList, .three .int .div),
   ("EQF".toList, .two .single .single .eqf),
   ("NEF".toList, .two .single .single .nef),
   ("LTF".toList, .two .single .single .ltf),
   ("GTF".toList, .two .single .single .gtf),
   ("LEF".toList, .two .single .single .lef),
   ("GEF".toList, .two .single .single .gef),
   ("MULTU".toList, .three .int .multu),
   ("DIVU".toList, .three .int .divu),
   ("EQD".toList, .two .double .double .eqd),
   ("NED".toList, .two .double .double .ned),
   ("LTD".toList, .two .double .double .ltd),
   ("GTD".toList, .two .double .double .gtd),
   ("LED".toList, .two .double .double .led),
   ("GED".toList, .two .double .double .ged)]

/-- The forms of the rows of formats I and J. -/
def asmTableIJ : List (List Char × AsmForm) :=
  [("J".toList, .jump .j),
   ("JAL".toList, .jump .jal),
   ("BEQZ".toList, .branchReg .beqz),
   ("BNEZ".toList, .branchReg .bnez),
   ("BFPT".toList, .branch .bfpt),
   ("BFPF".toList, .branch .bfpf),
   ("ADDI".toList, .imm .signed .addi),
   ("ADDUI".toList, .imm .unsigned .addui),
   ("SUBI".toList, .imm .signed .subi),
   ("SUBUI".toList, .imm .unsigned .subui),
   ("ANDI".toList, .imm .unsigned .andi),
   ("ORI".toList, .imm .unsigned .ori),
   ("XORI".toList, .imm .unsigned .xori),
   ("LHI".toList, .high .lhi),
   ("RFE".toList, .none .rfe),
   ("TRAP".toList, .trap .trap),
   ("JR".toList, .one .int .jr),
   ("JALR".toList, .one .int .jalr),
   ("SLLI".toList, .imm .shift .slli),
   ("SRLI".toList, .imm .shift .srli),
   ("SRAI".toList, .imm .shift .srai),
   ("SEQI".toList, .imm .signed .seqi),
   ("SNEI".toList, .imm .signed .snei),
   ("SLTI".toList, .imm .signed .slti),
   ("SGTI".toList, .imm .signed .sgti),
   ("SLEI".toList, .imm .signed .slei),
   ("SGEI".toList, .imm .signed .sgei),
   ("LB".toList, .load .int .lb),
   ("LH".toList, .load .int .lh),
   ("LW".toList, .load .int .lw),
   ("LBU".toList, .load .int .lbu),
   ("LHU".toList, .load .int .lhu),
   ("LF".toList, .load .single .lf),
   ("LD".toList, .load .double .ld),
   ("SB".toList, .store .int .sb),
   ("SH".toList, .store .int .sh),
   ("SW".toList, .store .int .sw),
   ("SF".toList, .store .single .sf),
   ("SD".toList, .store .double .sd)]

/-- The form of every row, and the one second spelling an assembler may accept (30_encoding.md R77). -/
def asmTable : List (List Char × AsmForm) :=
  asmTable00 ++ asmTable01 ++ asmTableIJ ++ [("MOVI2F".toList, .two .single .int .movi2fp)]

/-- The form of a mnemonic. -/
def lookupForm (mnemonic : List Char) : List (List Char × AsmForm) → Except AsmReject AsmForm
  | [] => .error .unknownMnemonic
  | (name, form) :: rest => if name = mnemonic then .ok form else lookupForm mnemonic rest

/-- The field value of a register: `Dn` is coded `2n` or `n` (30_encoding.md R72). -/
def regField (d : DregField) (file : RegFile) (n : Nat) : Except AsmReject RegNum :=
  match file, d with
  | .double, .evenFIndex => if h : n < 16 then .ok ⟨2 * n, by omega⟩ else .error .badRegister
  | .double, .dIndex => if h : n < 16 then .ok ⟨n, by omega⟩ else .error .badRegister
  | .int, _ => if h : n < 32 then .ok ⟨n, h⟩ else .error .badRegister
  | .single, _ => if h : n < 32 then .ok ⟨n, h⟩ else .error .badRegister

/-- A register operand of a given file. -/
def regOperand (d : DregField) (file : RegFile) : AsmOperand → Except AsmReject RegNum
  | .reg file' n => if file' = file then regField d file n else .error .badOperands
  | _ => .error .badOperands

/-- A number within bounds. -/
def within (low high k : Int) : Except AsmReject Int :=
  if low ≤ k ∧ k ≤ high then .ok k else .error .outOfRange

/-- An immediate operand within bounds, as a field of `w` bits. -/
def immOperand (w : Nat) (low high : Int) : AsmOperand → Except AsmReject (BitVec w)
  | .imm k => (within low high k).map (BitVec.ofInt w)
  | _ => .error .badOperands

/-- The bounds of a range (30_encoding.md R78). -/
def ImmRange.operand : ImmRange → AsmOperand → Except AsmReject Imm16
  | .signed => immOperand 16 (-32768) 32767
  | .unsigned => immOperand 16 0 65535
  | .shift => immOperand 16 0 31

/-- The displacement and the base register of a memory operand (30_encoding.md R73, R78). -/
def memOperand (d : DregField) : AsmOperand → Except AsmReject (RegNum × Imm16)
  | .mem disp base => do
    let rs ← regField d .int base
    let k ← within (-32768) 32767 disp
    return (rs, BitVec.ofInt 16 k)
  | _ => .error .badOperands

/-- Build an instruction from its operands (30_encoding.md R71). -/
def AsmForm.build (d : DregField) : AsmForm → List AsmOperand → Except AsmReject Instr
  | .three file mk, [a, b, c] => do
    return mk (← regOperand d file a) (← regOperand d file b) (← regOperand d file c)
  | .two first second mk, [a, b] => do return mk (← regOperand d first a) (← regOperand d second b)
  | .one file mk, [a] => do return mk (← regOperand d file a)
  | .imm range mk, [a, b, k] => do
    return mk (← regOperand d .int a) (← regOperand d .int b) (← range.operand k)
  | .high mk, [a, k] => do return mk (← regOperand d .int a) (← immOperand 16 (-32768) 65535 k)
  | .branchReg mk, [a, k] => do return mk (← regOperand d .int a) (← immOperand 16 (-32768) 32767 k)
  | .branch mk, [k] => do return mk (← immOperand 16 (-32768) 32767 k)
  | .jump mk, [k] => do return mk (← immOperand 26 (-33554432) 33554431 k)
  | .trap mk, [k] => do return mk (← immOperand 26 0 67108863 k)
  | .none i, [] => .ok i
  | .load file mk, [a, m] => do
    let rd ← regOperand d file a
    let (rs, disp) ← memOperand d m
    return mk rd rs disp
  | .store file mk, [m, a] => do
    let (rs, disp) ← memOperand d m
    let rd ← regOperand d file a
    return mk rd rs disp
  | _, _ => .error .badOperands

/-- Assemble one instruction whose label operands are already offsets. -/
def assembleInstr (d : DregField) (i : AsmInstr) : Except AsmReject Instr := do
  (← lookupForm i.mnemonic asmTable).build d i.operands

/-! ### Labels (30_encoding.md R74) -/

/-- The label's address, if it has one. -/
def lookupLabel (name : List Char) : List (List Char × Int) → Except AsmReject Int
  | [] => .error .unknownLabel
  | (n, a) :: rest => if n = name then .ok a else lookupLabel name rest

/-- A branch or a jump takes a label where the table writes `Imm` or `Dest`. -/
def AsmForm.takesLabel : AsmForm → Bool
  | .branchReg _ | .branch _ | .jump _ => true
  | .three _ _ | .two _ _ _ | .one _ _ | .imm _ _ | .high _ | .trap _ | .none _ | .load _ _ | .store _ _ => false

/-- A label operand becomes the offset `label - (A + 4)`, `A` the instruction's address. -/
def resolveOperands (labels : List (List Char × Int)) (address : Int) :
    List AsmOperand → Except AsmReject (List AsmOperand)
  | [] => .ok []
  | .label name :: rest => do
    let a ← lookupLabel name labels
    return .imm (a - (address + 4)) :: (← resolveOperands labels address rest)
  | o :: rest => do return o :: (← resolveOperands labels address rest)

/-- The address each label stands for: that of the next instruction, or where one would lie at the end of the
text (30_encoding.md R74). Addresses are integers that do not wrap modulo 2^32 (DESIGN CHOICE, log
entry 23). -/
def collectLabels : List AsmLine → Int → List (List Char × Int)
  | [], _ => []
  | .blank :: rest, a => collectLabels rest a
  | .label name :: rest, a => (name, a) :: collectLabels rest a
  | .instr _ :: rest, a => collectLabels rest (a + 4)

/-- Assemble lines from an address on. -/
def assembleLines (d : DregField) (labels : List (List Char × Int)) :
    List AsmLine → Int → Except AsmReject (List Instr)
  | [], _ => .ok []
  | .blank :: rest, a => assembleLines d labels rest a
  | .label _ :: rest, a => assembleLines d labels rest a
  | .instr i :: rest, a => do
    let form ← lookupForm i.mnemonic asmTable
    let operands ← if form.takesLabel then resolveOperands labels a i.operands else .ok i.operands
    let x ← form.build d operands
    return x :: (← assembleLines d labels rest (a + 4))

/-! ### Lines of text (30_encoding.md R71 to R75) -/

/-- White space: a space or a tab (DESIGN CHOICE, log entry 22; R71 does not say what it is). -/
def isSpace (c : Char) : Bool := c == ' ' || c == '\t'

/-- What stands before a comment (30_encoding.md R75). -/
def stripComment (l : List Char) : List Char := l.takeWhile (· != ';')

/-- Without white space at either end: of a line and of an operand it counts for nothing (DESIGN CHOICE, log
entry 22; R71 speaks only of that after the mnemonic and after a comma). -/
def trim (l : List Char) : List Char := ((l.dropWhile isSpace).reverse.dropWhile isSpace).reverse

/-- The value of decimal digits, most significant first. -/
def digitsValue : List Char → Nat → Option Nat
  | [], n => some n
  | c :: rest, n => if c.isDigit then digitsValue rest (10 * n + (c.toNat - 48)) else none

/-- A decimal number without a sign, of at least one digit (30_encoding.md R72, R73). Leading zeros count for
nothing, so `R01` is `R1` and `#007` is `#7` (DESIGN CHOICE, log entry 21; the rules do not say whether they may
be written). -/
def parseNat (l : List Char) : Option Nat := if l.isEmpty then none else digitsValue l 0

/-- A decimal number with an optional minus sign (30_encoding.md R73). -/
def parseInt : List Char → Option Int
  | '-' :: rest => (parseNat rest).map fun n => -(n : Int)
  | l => (parseNat l).map fun n => (n : Int)

/-- The file a register name's letter stands for (30_encoding.md R72). -/
def fileOfLetter : Char → Option RegFile
  | 'R' => some .int
  | 'F' => some .single
  | 'D' => some .double
  | _ => none

/-- A register name (30_encoding.md R72). -/
def parseReg : List Char → Option (RegFile × Nat)
  | c :: rest => do return (← fileOfLetter c, ← parseNat rest)
  | [] => none

/-- `disp(Rbase)` (30_encoding.md R73). -/
def parseMem (l : List Char) : Option AsmOperand := do
  let disp ← parseInt (l.takeWhile (· != '('))
  match (l.dropWhile (· != '(')).drop 1 |>.reverse with
  | ')' :: reg =>
    match parseReg reg.reverse with
    | some (.int, base) => some (.mem disp base)
    | _ => none
  | _ => none

/-- One operand (30_encoding.md R72 to R74). Text that starts with no `#`, is no register name, has no `(` and
is not empty is a label's name (DESIGN CHOICE, log entry 20). -/
def parseOperand : List Char → Except AsmReject AsmOperand
  | '#' :: rest => match parseInt rest with
    | some k => .ok (.imm k)
    | none => .error .badNumber
  | l =>
    match parseReg l with
    | some (file, n) => .ok (.reg file n)
    | none =>
      if l.contains '(' then
        match parseMem l with
        | some m => .ok m
        | none => .error .badOperands
      else if l.isEmpty then .error .badOperands
      else .ok (.label l)

/-- Split at commas; a list of no characters has no parts. -/
def splitCommas (l : List Char) : List (List Char) := if l.isEmpty then [] else l.splitOn ','

/-- One line (30_encoding.md R71, R74, R75). DESIGN CHOICE, log entry 20: a label's name is whatever stands
before a final `:`, white space, commas and the empty name included; R74 says only that it is a name. DESIGN
CHOICE, log entry 22: white space at the start of a line, before a comma and at the end is skipped, and a line
with nothing else is blank. -/
def parseLine (text : List Char) : Except AsmReject AsmLine :=
  let l := trim (stripComment text)
  if l.isEmpty then .ok .blank
  else match l.reverse with
    | ':' :: name => .ok (.label name.reverse)
    | _ => do
      let operands ← (splitCommas (trim (l.dropWhile (!isSpace ·)))).mapM fun o => parseOperand (trim o)
      return .instr ⟨l.takeWhile (!isSpace ·), operands⟩

/-- Assemble source text, one list of characters a line, whose first instruction lies at `origin`
(30_encoding.md R70 to R78). -/
def assemble (d : DregField) (origin : Int) (text : List (List Char)) : Except AsmReject (List Instr) := do
  let lines ← text.mapM parseLine
  assembleLines d (collectLabels lines origin) lines origin

/-! ### The canonical spelling -/

/-- A register field as an assembler writes it (30_encoding.md R72). -/
def regOut (d : DregField) (file : RegFile) (k : RegNum) : AsmOperand :=
  match file, d with
  | .double, .evenFIndex => .reg .double (k.val / 2)
  | .double, .dIndex => .reg .double k.val
  | .int, _ => .reg .int k.val
  | .single, _ => .reg .single k.val

/-- How an instruction is written; branch and jump targets as plain offsets (30_encoding.md R71 to R76). -/
def disassemble (d : DregField) : Instr → AsmInstr
  | .sll rd rs rc => ⟨"SLL".toList, [regOut d .int rd, regOut d .int rs, regOut d .int rc]⟩
  | .srl rd rs rc => ⟨"SRL".toList, [regOut d .int rd, regOut d .int rs, regOut d .int rc]⟩
  | .sra rd rs rc => ⟨"SRA".toList, [regOut d .int rd, regOut d .int rs, regOut d .int rc]⟩
  | .add rd rs rc => ⟨"ADD".toList, [regOut d .int rd, regOut d .int rs, regOut d .int rc]⟩
  | .addu rd rs rc => ⟨"ADDU".toList, [regOut d .int rd, regOut d .int rs, regOut d .int rc]⟩
  | .sub rd rs rc => ⟨"SUB".toList, [regOut d .int rd, regOut d .int rs, regOut d .int rc]⟩
  | .subu rd rs rc => ⟨"SUBU".toList, [regOut d .int rd, regOut d .int rs, regOut d .int rc]⟩
  | .and rd rs rc => ⟨"AND".toList, [regOut d .int rd, regOut d .int rs, regOut d .int rc]⟩
  | .or rd rs rc => ⟨"OR".toList, [regOut d .int rd, regOut d .int rs, regOut d .int rc]⟩
  | .xor rd rs rc => ⟨"XOR".toList, [regOut d .int rd, regOut d .int rs, regOut d .int rc]⟩
  | .seq rd rs rc => ⟨"SEQ".toList, [regOut d .int rd, regOut d .int rs, regOut d .int rc]⟩
  | .sne rd rs rc => ⟨"SNE".toList, [regOut d .int rd, regOut d .int rs, regOut d .int rc]⟩
  | .slt rd rs rc => ⟨"SLT".toList, [regOut d .int rd, regOut d .int rs, regOut d .int rc]⟩
  | .sgt rd rs rc => ⟨"SGT".toList, [regOut d .int rd, regOut d .int rs, regOut d .int rc]⟩
  | .sle rd rs rc => ⟨"SLE".toList, [regOut d .int rd, regOut d .int rs, regOut d .int rc]⟩
  | .sge rd rs rc => ⟨"SGE".toList, [regOut d .int rd, regOut d .int rs, regOut d .int rc]⟩
  | .movi2s rs => ⟨"MOVI2S".toList, [regOut d .int rs]⟩
  | .movs2i rd => ⟨"MOVS2I".toList, [regOut d .int rd]⟩
  | .movf fd fs => ⟨"MOVF".toList, [regOut d .single fd, regOut d .single fs]⟩
  | .movd dd ds => ⟨"MOVD".toList, [regOut d .double dd, regOut d .double ds]⟩
  | .movfp2i rd fs => ⟨"MOVFP2I".toList, [regOut d .int rd, regOut d .single fs]⟩
  | .movi2fp fd rs => ⟨"MOVI2FP".toList, [regOut d .single fd, regOut d .int rs]⟩
  | .addf fd fs fc => ⟨"ADDF".toList, [regOut d .single fd, regOut d .single fs, regOut d .single fc]⟩
  | .subf fd fs fc => ⟨"SUBF".toList, [regOut d .single fd, regOut d .single fs, regOut d .single fc]⟩
  | .multf fd fs fc => ⟨"MULTF".toList, [regOut d .single fd, regOut d .single fs, regOut d .single fc]⟩
  | .divf fd fs fc => ⟨"DIVF".toList, [regOut d .single fd, regOut d .single fs, regOut d .single fc]⟩
  | .addd dd ds dc => ⟨"ADDD".toList, [regOut d .double dd, regOut d .double ds, regOut d .double dc]⟩
  | .subd dd ds dc => ⟨"SUBD".toList, [regOut d .double dd, regOut d .double ds, regOut d .double dc]⟩
  | .multd dd ds dc => ⟨"MULTD".toList, [regOut d .double dd, regOut d .double ds, regOut d .double dc]⟩
  | .divd dd ds dc => ⟨"DIVD".toList, [regOut d .double dd, regOut d .double ds, regOut d .double dc]⟩
  | .cvtf2d dd fs => ⟨"CVTF2D".toList, [regOut d .double dd, regOut d .single fs]⟩
  | .cvtf2i rd fs => ⟨"CVTF2I".toList, [regOut d .int rd, regOut d .single fs]⟩
  | .cvtd2f fd ds => ⟨"CVTD2F".toList, [regOut d .single fd, regOut d .double ds]⟩
  | .cvtd2i rd ds => ⟨"CVTD2I".toList, [regOut d .int rd, regOut d .double ds]⟩
  | .cvti2f fd rs => ⟨"CVTI2F".toList, [regOut d .single fd, regOut d .int rs]⟩
  | .cvti2d dd rs => ⟨"CVTI2D".toList, [regOut d .double dd, regOut d .int rs]⟩
  | .mult rd rs rc => ⟨"MULT".toList, [regOut d .int rd, regOut d .int rs, regOut d .int rc]⟩
  | .div rd rs rc => ⟨"DIV".toList, [regOut d .int rd, regOut d .int rs, regOut d .int rc]⟩
  | .eqf fs fc => ⟨"EQF".toList, [regOut d .single fs, regOut d .single fc]⟩
  | .nef fs fc => ⟨"NEF".toList, [regOut d .single fs, regOut d .single fc]⟩
  | .ltf fs fc => ⟨"LTF".toList, [regOut d .single fs, regOut d .single fc]⟩
  | .gtf fs fc => ⟨"GTF".toList, [regOut d .single fs, regOut d .single fc]⟩
  | .lef fs fc => ⟨"LEF".toList, [regOut d .single fs, regOut d .single fc]⟩
  | .gef fs fc => ⟨"GEF".toList, [regOut d .single fs, regOut d .single fc]⟩
  | .multu rd rs rc => ⟨"MULTU".toList, [regOut d .int rd, regOut d .int rs, regOut d .int rc]⟩
  | .divu rd rs rc => ⟨"DIVU".toList, [regOut d .int rd, regOut d .int rs, regOut d .int rc]⟩
  | .eqd ds dc => ⟨"EQD".toList, [regOut d .double ds, regOut d .double dc]⟩
  | .ned ds dc => ⟨"NED".toList, [regOut d .double ds, regOut d .double dc]⟩
  | .ltd ds dc => ⟨"LTD".toList, [regOut d .double ds, regOut d .double dc]⟩
  | .gtd ds dc => ⟨"GTD".toList, [regOut d .double ds, regOut d .double dc]⟩
  | .led ds dc => ⟨"LED".toList, [regOut d .double ds, regOut d .double dc]⟩
  | .ged ds dc => ⟨"GED".toList, [regOut d .double ds, regOut d .double dc]⟩
  | .j dest => ⟨"J".toList, [.imm dest.toInt]⟩
  | .jal dest => ⟨"JAL".toList, [.imm dest.toInt]⟩
  | .beqz rs imm => ⟨"BEQZ".toList, [regOut d .int rs, .imm imm.toInt]⟩
  | .bnez rs imm => ⟨"BNEZ".toList, [regOut d .int rs, .imm imm.toInt]⟩
  | .bfpt imm => ⟨"BFPT".toList, [.imm imm.toInt]⟩
  | .bfpf imm => ⟨"BFPF".toList, [.imm imm.toInt]⟩
  | .addi rd rs imm => ⟨"ADDI".toList, [regOut d .int rd, regOut d .int rs, .imm imm.toInt]⟩
  | .addui rd rs imm => ⟨"ADDUI".toList, [regOut d .int rd, regOut d .int rs, .imm imm.toNat]⟩
  | .subi rd rs imm => ⟨"SUBI".toList, [regOut d .int rd, regOut d .int rs, .imm imm.toInt]⟩
  | .subui rd rs imm => ⟨"SUBUI".toList, [regOut d .int rd, regOut d .int rs, .imm imm.toNat]⟩
  | .andi rd rs imm => ⟨"ANDI".toList, [regOut d .int rd, regOut d .int rs, .imm imm.toNat]⟩
  | .ori rd rs imm => ⟨"ORI".toList, [regOut d .int rd, regOut d .int rs, .imm imm.toNat]⟩
  | .xori rd rs imm => ⟨"XORI".toList, [regOut d .int rd, regOut d .int rs, .imm imm.toNat]⟩
  | .lhi rd imm => ⟨"LHI".toList, [regOut d .int rd, .imm imm.toNat]⟩
  | .rfe => ⟨"RFE".toList, []⟩
  | .trap trap => ⟨"TRAP".toList, [.imm trap.toNat]⟩
  | .jr rs => ⟨"JR".toList, [regOut d .int rs]⟩
  | .jalr rs => ⟨"JALR".toList, [regOut d .int rs]⟩
  | .slli rd rs imm => ⟨"SLLI".toList, [regOut d .int rd, regOut d .int rs, .imm imm.toNat]⟩
  | .srli rd rs imm => ⟨"SRLI".toList, [regOut d .int rd, regOut d .int rs, .imm imm.toNat]⟩
  | .srai rd rs imm => ⟨"SRAI".toList, [regOut d .int rd, regOut d .int rs, .imm imm.toNat]⟩
  | .seqi rd rs imm => ⟨"SEQI".toList, [regOut d .int rd, regOut d .int rs, .imm imm.toInt]⟩
  | .snei rd rs imm => ⟨"SNEI".toList, [regOut d .int rd, regOut d .int rs, .imm imm.toInt]⟩
  | .slti rd rs imm => ⟨"SLTI".toList, [regOut d .int rd, regOut d .int rs, .imm imm.toInt]⟩
  | .sgti rd rs imm => ⟨"SGTI".toList, [regOut d .int rd, regOut d .int rs, .imm imm.toInt]⟩
  | .slei rd rs imm => ⟨"SLEI".toList, [regOut d .int rd, regOut d .int rs, .imm imm.toInt]⟩
  | .sgei rd rs imm => ⟨"SGEI".toList, [regOut d .int rd, regOut d .int rs, .imm imm.toInt]⟩
  | .lb rd rs imm => ⟨"LB".toList, [regOut d .int rd, .mem imm.toInt rs.val]⟩
  | .lh rd rs imm => ⟨"LH".toList, [regOut d .int rd, .mem imm.toInt rs.val]⟩
  | .lw rd rs imm => ⟨"LW".toList, [regOut d .int rd, .mem imm.toInt rs.val]⟩
  | .lbu rd rs imm => ⟨"LBU".toList, [regOut d .int rd, .mem imm.toInt rs.val]⟩
  | .lhu rd rs imm => ⟨"LHU".toList, [regOut d .int rd, .mem imm.toInt rs.val]⟩
  | .lf fd rs imm => ⟨"LF".toList, [regOut d .single fd, .mem imm.toInt rs.val]⟩
  | .ld dd rs imm => ⟨"LD".toList, [regOut d .double dd, .mem imm.toInt rs.val]⟩
  | .sb rd rs imm => ⟨"SB".toList, [.mem imm.toInt rs.val, regOut d .int rd]⟩
  | .sh rd rs imm => ⟨"SH".toList, [.mem imm.toInt rs.val, regOut d .int rd]⟩
  | .sw rd rs imm => ⟨"SW".toList, [.mem imm.toInt rs.val, regOut d .int rd]⟩
  | .sf fd rs imm => ⟨"SF".toList, [.mem imm.toInt rs.val, regOut d .single fd]⟩
  | .sd dd rs imm => ⟨"SD".toList, [.mem imm.toInt rs.val, regOut d .double dd]⟩

end Sys2Proof.Machine
end

