-- ==== Sys2Proof/Safety.lean ====
section
/-! DEFINITION. The terms in which claims are stated: what a completed instruction leaves unchanged, the
invariant of the machine, and what a safe run is. -/

namespace Sys2Proof

/-! ### Families of instructions -/

/-- The twelve comparisons, the only writers of fpsr (10_state.md R19). -/
def Instr.isComparison : Instr → Bool
  | .eqf _ _ | .nef _ _ | .ltf _ _ | .gtf _ _ | .lef _ _ | .gef _ _ | .eqd _ _ | .ned _ _ | .ltd _ _
    | .gtd _ _ | .led _ _ | .ged _ _ => true
  | _ => false

/-- The ten instructions that may put anything but `A + 4` into pc (10_state.md R20). -/
def Instr.isTransfer : Instr → Bool
  | .j _ | .jal _ | .beqz _ _ | .bnez _ _ | .bfpt _ | .bfpf _ | .jr _ | .jalr _ | .trap _ | .rfe => true
  | _ => false

/-- The five stores, the only writers of memory (20_memory.md R30). -/
def Instr.isStore : Instr → Bool
  | .sb _ _ _ | .sh _ _ _ | .sw _ _ _ | .sf _ _ _ | .sd _ _ _ => true
  | _ => false

/-- The twelve loads and stores (48_loads_stores.md). -/
def Instr.isMemory : Instr → Bool
  | .lb _ _ _ | .lh _ _ _ | .lw _ _ _ | .lbu _ _ _ | .lhu _ _ _ | .lf _ _ _ | .ld _ _ _ => true
  | .sb _ _ _ | .sh _ _ _ | .sw _ _ _ | .sf _ _ _ | .sd _ _ _ => true
  | _ => false

/-- The one writer of special (10_state.md R23). -/
def Instr.writesSpecial : Instr → Bool
  | .movi2s _ => true
  | _ => false

/-- The instructions that read a register, fpsr or special (60_exceptions.md R304). -/
def Instr.readsRegister : Instr → Bool
  | .j _ | .jal _ | .lhi _ _ | .rfe | .trap _ => false
  | _ => true

/-- The column "raised by" of 60_exceptions.md R304, for the kinds an instruction can raise; that of
UnwrittenRead is `Instr.readsRegister`. -/
def Instr.mayRaise (i : Instr) : Machine.Fault → Bool
  | .fetchMisaligned | .fetchOutOfRange | .fetchModified | .reservedInstruction => false
  | .reservedDoubleRegister => !i.doubleFields.isEmpty
  | .dataMisaligned =>
    match i with
    | .lh _ _ _ | .lhu _ _ _ | .sh _ _ _ | .lw _ _ _ | .lf _ _ _ | .sw _ _ _ | .sf _ _ _ => true
    | .ld _ _ _ | .sd _ _ _ => true
    | _ => false
  | .dataOutOfRange => i.isMemory
  | .divideByZero =>
    match i with
    | .div _ _ _ | .divu _ _ _ => true
    | _ => false
  | .rfeNoSavedState =>
    match i with
    | .rfe => true
    | _ => false
  | .nestedTrap =>
    match i with
    | .trap _ => true
    | _ => false

end Sys2Proof

namespace Sys2Proof.Machine

/-! ### What an instruction leaves unchanged -/

/-- Every byte of memory reads as before. -/
def SameMemory (s t : State) : Prop := ∀ a, t.mem.read a = s.mem.read a

/-- Every byte of memory outside the `n` bytes at `a` reads as before. -/
def SameMemoryOutside (a : Word) (n : Nat) (s t : State) : Prop :=
  ∀ x, x < a.toNat ∨ a.toNat + n ≤ x → t.mem.read x = s.mem.read x

/-- What no instruction but TRAP and RFE touches: the saved slot, the run status, the count of answered
traps; and the parameters, which nothing touches (10_state.md R24, R28; 60_exceptions.md R301). -/
def SameSystem (s t : State) : Prop :=
  t.saved = s.saved ∧ t.status = s.status ∧ t.served = s.served ∧ t.params = s.params

/-- What an instruction that stores nothing leaves alone beside its own destination: memory, `modified`
and the system state. -/
def SameElsewhere (s t : State) : Prop :=
  SameMemory s t ∧ t.modified = s.modified ∧ SameSystem s t

/-- The integer register `rd` holds `v` and counts as written, every other one is as before; R0 still reads
0 when it is the destination (10_state.md R11, R12, R14). -/
def WritesR (rd : RegNum) (v : Word) (s t : State) : Prop :=
  (∀ i, t.readR i = if i = 0 then 0 else if i = rd then v else s.readR i) ∧
  (∀ i, (t.r.get i).written = if i = rd ∧ i ≠ 0 then true else (s.r.get i).written)

/-- The single register `fd` holds `v` and counts as written, every other one is as before (10_state.md R14,
R16). -/
def WritesF (fd : RegNum) (v : Word) (s t : State) : Prop :=
  (∀ i, t.readF i = if i = fd then v else s.readF i) ∧
  (∀ i, (t.f.get i).written = if i = fd then true else (s.f.get i).written)

/-- The pair `p` holds `v`, the more significant half in the even register, and both halves count as
written; every other F register is as before (10_state.md R14, R17, R18). -/
def WritesPair (p : Pair) (v : DWord) (s t : State) : Prop :=
  (∀ i, t.readF i =
    if i = p.hi then v.extractLsb' 32 32 else if i = p.lo then v.extractLsb' 0 32 else s.readF i) ∧
  (∀ i, (t.f.get i).written = if i = p.hi ∨ i = p.lo then true else (s.f.get i).written)

/-- All integer registers as before. -/
def SameR (s t : State) : Prop := t.r = s.r
/-- All F registers as before. -/
def SameF (s t : State) : Prop := t.f = s.f
/-- fpsr as before. -/
def SameFpsr (s t : State) : Prop := t.fpsr = s.fpsr
/-- RegSpecial as before. -/
def SameSpecial (s t : State) : Prop := t.special = s.special

/-- The instruction answers a next state, and that state is as said. -/
def Completes (o : StepOutcome) (post : State → Prop) : Prop := ∃ t, o = .next t ∧ post t

/-- One integer register is written, and the machine goes on at `A + 4` (40_int_register.md R100). -/
def IntWrite (s : State) (rd : RegNum) (v : Word) (t : State) : Prop :=
  WritesR rd v s t ∧ SameF s t ∧ SameFpsr s t ∧ SameSpecial s t ∧ SameElsewhere s t ∧ t.pc = s.pc + 4

/-- The result of an instruction that writes one integer register and goes on (40_int_register.md R100,
46_int_immediate.md R200, 43_int_muldiv.md R150). -/
def IntResult (s : State) (rd : RegNum) (v : Word) (t : State) : Prop :=
  IntWrite s rd v t ∧ t.draws = s.draws

/-- The result of a conversion to integer: the stated value, or any value where none is stated
(42_fp_arith_convert.md R140). -/
def IntOrAnyResult (s : State) (rd : RegNum) (x : Option Word) (t : State) : Prop :=
  match x with
  | some v => IntWrite s rd v t ∧ t.draws = s.draws
  | none => (∃ v, IntWrite s rd v t) ∧ t.draws = s.draws + 1

/-- One single register is written, and the machine goes on at `A + 4` (42_fp_arith_convert.md R148). -/
def SingleWrite (s : State) (fd : RegNum) (v : Word) (t : State) : Prop :=
  WritesF fd v s t ∧ SameR s t ∧ SameFpsr s t ∧ SameSpecial s t ∧ SameElsewhere s t ∧ t.pc = s.pc + 4

/-- The result of an instruction that writes one single register: the pattern the rules fix, or any NaN
(42_fp_arith_convert.md R131 (a), R148). -/
def SingleResult (s : State) (fd : RegNum) (x : FpResult) (t : State) : Prop :=
  match x with
  | .pattern v => SingleWrite s fd (BitVec.ofNat 32 v) t ∧ t.draws = s.draws
  | .anyNan => (∃ v, single v = .nan ∧ SingleWrite s fd v t) ∧ t.draws = s.draws + 1

/-- One double register is written, and the machine goes on at `A + 4` (42_fp_arith_convert.md R148). -/
def DoubleWrite (s : State) (p : Pair) (v : DWord) (t : State) : Prop :=
  WritesPair p v s t ∧ SameR s t ∧ SameFpsr s t ∧ SameSpecial s t ∧ SameElsewhere s t ∧ t.pc = s.pc + 4

/-- The result of an instruction that writes one double register: the pattern the rules fix, or any NaN
(42_fp_arith_convert.md R131 (a), R148). -/
def DoubleResult (s : State) (p : Pair) (x : FpResult) (t : State) : Prop :=
  match x with
  | .pattern v => DoubleWrite s p (BitVec.ofNat 64 v) t ∧ t.draws = s.draws
  | .anyNan => (∃ v, double v = .nan ∧ DoubleWrite s p v t) ∧ t.draws = s.draws + 1

/-- The result of MOVI2S: special alone changes, and counts as written (41_moves.md R120, R126). -/
def SpecialResult (s : State) (v : Word) (t : State) : Prop :=
  t.special = ⟨v, true⟩ ∧ SameR s t ∧ SameF s t ∧ SameFpsr s t ∧ SameElsewhere s t ∧
    t.draws = s.draws ∧ t.pc = s.pc + 4

/-- The result of a comparison: fpsr alone changes, and counts as written (44_fp_compare.md R160). -/
def FpsrResult (s : State) (b : Bool) (t : State) : Prop :=
  t.fpsr = ⟨b, true⟩ ∧ SameR s t ∧ SameF s t ∧ SameSpecial s t ∧ SameElsewhere s t ∧
    t.draws = s.draws ∧ t.pc = s.pc + 4

/-- The result of a transfer of control that writes no register (45_control_transfer.md R193). -/
def TransferResult (s : State) (target : Word) (t : State) : Prop :=
  SameR s t ∧ SameF s t ∧ SameFpsr s t ∧ SameSpecial s t ∧ SameElsewhere s t ∧ t.draws = s.draws ∧
    t.pc = target

/-- The result of a jump and link: R31 holds the link value (45_control_transfer.md R193). -/
def LinkResult (s : State) (link target : Word) (t : State) : Prop :=
  WritesR 31 link s t ∧ SameF s t ∧ SameFpsr s t ∧ SameSpecial s t ∧ SameElsewhere s t ∧
    t.draws = s.draws ∧ t.pc = target

/-- The result of a store of the low `n` bytes of `v` at `a`: the byte at `a + i` is the `i`-th from the
most significant end, every other byte is as before, the bytes join `modified` unless `ALLOW_SMC`, and no
register changes (48_loads_stores.md R244, R246; 20_memory.md R32, R45). -/
def StoreResult (s : State) (a : Word) (n : Nat) (v : BitVec (8 * n)) (t : State) : Prop :=
  (∀ i, i < n → t.mem.read (a.toNat + i) = v.extractLsb' (8 * (n - 1 - i)) 8) ∧
  SameMemoryOutside a n s t ∧
  (∀ x, x ∈ t.modified ↔
    x ∈ s.modified ∨ (s.params.allowSmc = false ∧ a.toNat ≤ x ∧ x < a.toNat + n)) ∧
  SameR s t ∧ SameF s t ∧ SameFpsr s t ∧ SameSpecial s t ∧ SameSystem s t ∧ t.draws = s.draws ∧
  t.pc = s.pc + 4

/-- The fault an access of `n` bytes at `a` meets: alignment is checked first, then range (20_memory.md R35,
R36). -/
def AccessFault (s : State) (a : Word) (n : Nat) (k : Fault) : Prop :=
  (a.toNat % n ≠ 0 ∧ k = .dataMisaligned) ∨
  (a.toNat % n = 0 ∧ ¬ Params.InRange s.params a.toNat n ∧ k = .dataOutOfRange)

/-! ### Floating-point results -/

/-- The number a finite value is, in units of the format, is as near to `num / den` as the one with
`units` and `neg`. -/
def NearerOrEqual (num : Int) (den : Nat) (neg : Bool) (units : Nat) (neg' : Bool) (units' : Nat) : Prop :=
  (signedUnits neg units * den - num).natAbs ≤ (signedUnits neg' units' * den - num).natAbs

/-- Twice the magnitude, in units, from which rounding to nearest even gives an infinity: the largest finite
number and half a unit in its last place (42_fp_arith_convert.md R131 (c)). -/
def FpFormat.overflowTwice (F : FpFormat) : Nat := (2 ^ (F.fbits + 2) - 1) * 2 ^ (2 ^ F.ebits - 3)

/-- The result is the exact number `num / den` (in units of the format) rounded to nearest, ties to even,
overflow giving the infinity of its sign (42_fp_arith_convert.md R131): no value of the format is nearer, and
of two that are equally near the result is the one with an even fraction. -/
def CorrectlyRounded (F : FpFormat) (r : FpResult) (num : Int) (den : Nat) : Prop :=
  ∃ v, r = .pattern v ∧ v < 2 * F.signUnit ∧
    if F.overflowTwice * den ≤ 2 * num.natAbs then F.unpack v = .inf (decide (num < 0))
    else ∃ neg units, F.unpack v = .finite neg units ∧ (num ≠ 0 → neg = decide (num < 0)) ∧
      ∀ w neg' units', F.unpack w = .finite neg' units' →
        NearerOrEqual num den neg units neg' units' ∧
        (NearerOrEqual num den neg' units' neg units →
          signedUnits neg' units' = signedUnits neg units ∨ v % 2 = 0)

/-- What the operations of one format give on zeros and infinities: the sum of a number and its negative is
+0, and so is the difference of equal numbers; a zero sum or difference of zeros is -0 only where both terms
are; a number absorbed by an infinity; products and quotients take the exclusive-or of the signs; and a number
that is not zero over a zero is an infinity (42_fp_arith_convert.md R131 (b), R132 to R135). -/
structure ZeroAndInfinityRules {w : Nat} (value : BitVec w → FpDatum)
    (add sub mul div : BitVec w → BitVec w → FpResult) (zero infinity : Bool → FpResult) : Prop where
  add_negative : ∀ a b x m, value a = .finite x m → value b = .finite (!x) m → add a b = zero false
  sub_equal : ∀ a b x m, value a = .finite x m → value b = .finite x m → sub a b = zero false
  zero_terms : ∀ a b x y, value a = .finite x 0 → value b = .finite y 0 →
    add a b = zero (x && y) ∧ sub a b = zero (x && !y)
  inf_finite_terms : ∀ a b x y m, value a = .inf x → value b = .finite y m →
    add a b = infinity x ∧ add b a = infinity x ∧ sub a b = infinity x ∧ sub b a = infinity (!x)
  inf_terms : ∀ a b x, value a = .inf x →
    (value b = .inf x → add a b = infinity x) ∧ (value b = .inf (!x) → sub a b = infinity x)
  zero_factor : ∀ a b x y m n, value a = .finite x m → value b = .finite y n → m * n = 0 →
    mul a b = zero (x != y)
  inf_factor : ∀ a b x y m, value a = .inf x → value b = .finite y m → m ≠ 0 →
    mul a b = infinity (x != y) ∧ mul b a = infinity (x != y)
  inf_factors : ∀ a b x y, value a = .inf x → value b = .inf y → mul a b = infinity (x != y)
  zero_quotient : ∀ a b x y m, value a = .finite x 0 → value b = .finite y m → m ≠ 0 →
    div a b = zero (x != y) ∧ div b a = infinity (x != y)
  inf_quotient : ∀ a b x y m, value a = .inf x → value b = .finite y m →
    div a b = infinity (x != y) ∧ div b a = zero (x != y)

/-! ### Values nothing has written -/

/-- Under 10_state.md R14 the instruction does nothing, and the run ends as `faulted(UnwrittenRead, A)`. -/
def StopsUnwritten (i : Instr) (s : State) : Prop :=
  s.params.unwritten = .faults → execChecked i s = .next { s with status := .faulted .unwrittenRead s.pc }

/-- Two registers that differ at most in a value nothing has written. -/
def Marked.Agrees {α : Type} (c d : Marked α) : Prop :=
  d.written = c.written ∧ (c.written = true → d.value = c.value)

/-- Two states that differ at most in the values of registers nothing has written (10_state.md R14;
92_eei_decisions.md D7). -/
structure State.Agrees (s t : State) : Prop where
  r : ∀ i : RegNum, (s.r.get i).Agrees (t.r.get i)
  f : ∀ i : RegNum, (s.f.get i).Agrees (t.f.get i)
  fpsr : s.fpsr.Agrees t.fpsr
  special : s.special.Agrees t.special
  pc : t.pc = s.pc
  saved : t.saved = s.saved
  mem : t.mem = s.mem
  modified : t.modified = s.modified
  status : t.status = s.status
  draws : t.draws = s.draws
  served : t.served = s.served
  params : t.params = s.params

/-- The same fault, or next states that differ at most in the values of registers nothing has written. -/
def OutcomesAgree (o p : StepOutcome) : Prop :=
  (∃ u v, o = .next u ∧ p = .next v ∧ u.Agrees v) ∨ ∃ k, o = .fault k ∧ p = .fault k

/-! ### The invariant -/

/-- What holds of every state of a run, and of more states than those:
the launch parameters obey 00_scope.md R4, memory is in canonical form and lists only bytes that exist
(20_memory.md R30), `modified` lists bytes that exist, in rising order, slot 0 of the integer registers still
stands for R0 (10_state.md R11), a resume address is a multiple of 4 (47_trap_rfe.md R220), and in
`environment` mode program code runs with nothing saved (60_exceptions.md R302). -/
structure State.Inv (s : State) : Prop where
  params : s.params.Ok
  memory_canonical : s.mem.wf = true
  memory_exists : ∀ c ∈ s.mem, Params.InRange s.params c.1 1
  modified_rising : addrsRising s.modified = true
  modified_exists : ∀ a ∈ s.modified, Params.InRange s.params a 1
  r0_constant : s.r.get 0 = ⟨0, true⟩
  resume_aligned : ∀ a, s.saved = some a → a.toNat % 4 = 0
  environment_unsaved : s.status = .running → s.params.trapMode = .environment → s.saved = none

/-! ### Safe runs -/

/-- One step that answers a next state. -/
def StepsTo (s t : State) : Prop := step s = .next t

/-- The states a run can reach from `s` (70_reset_and_hazards.md R360). -/
inductive Reaches (s : State) : State → Prop where
  | refl : Reaches s s
  | tail {t u : State} : Reaches s t → StepsTo t u → Reaches s u

/-- The next step raises no fault and reads no unwritten register: the spec gives this state a behaviour
(60_exceptions.md R303, 10_state.md R14). -/
def StepSafe (s : State) : Prop :=
  (∃ t, step s = .next t) ∧ ∀ w i, s.fetch = .ok w → decode w = .ok i → s.readsUnwritten i = false

/-- A run that never faults: what a theorem about a program of this machine is about (60_exceptions.md
R303). -/
def RunSafe (s : State) : Prop := ∀ t, Reaches s t → StepSafe t

/-- A final state: the run has ended (70_reset_and_hazards.md R362). -/
def State.Final (s : State) : Prop := s.status ≠ .running

end Sys2Proof.Machine
end

