-- ==== Sys2Proof/Certificates/Slice0/Obligations.lean ====
section
/-! DEFINITION. The statements for the provers. Each docstring names the rules of spec/ it rests on. -/

section Statements

open Sys2Proof Sys2Proof.Machine

/-! ### Encoding -/

/-- Decoding the bytes of an instruction gives the instruction and leaves what follows it, for every
instruction and every operand (30_encoding.md R50, R59, R60; 20_memory.md R38). -/
def Obligations.DecodingInvertsEncoding : Prop :=
  ∀ (i : Instr) (rest : List Byte), decodeBytes (encodeBytes i ++ rest) = .ok (i, rest)

/-- A word is an instruction exactly when its used bits are those of the instruction's canonical word: no
used bit is dropped, no unused bit takes part, and no word is two instructions (30_encoding.md R59, R60,
R61, R78). -/
def Obligations.WordDecodesByItsUsedBits : Prop :=
  ∀ (w : Word) (i : Instr), decode w = .ok i ↔ w &&& i.usedBits = encode i

/-- The reserved words are the listed ones, and executing one stops the run with nothing changed
(30_encoding.md R66). -/
def Obligations.ReservedWordsStopTheRun : Prop :=
  (∀ w : Word, (∃ e, decode w = .error e) ↔
    (opField w = 0x00 ∧ funcField w ∉ ([0x04, 0x06, 0x07, 0x20, 0x21, 0x22, 0x23, 0x24, 0x25, 0x26, 0x28,
      0x29, 0x2A, 0x2B, 0x2C, 0x2D, 0x30, 0x31, 0x32, 0x33, 0x34, 0x35] : List (BitVec 11))) ∨
    (opField w = 0x01 ∧ 0x1D < (funcField w).toNat) ∨
    opField w ∈ ([0x15, 0x1E, 0x1F, 0x22, 0x3C, 0x3D] : List (BitVec 6)) ∨
    (0x2A ≤ (opField w).toNat ∧ (opField w).toNat ≤ 0x3A)) ∧
  (∃ e, decode 0x00000000 = .error e) ∧
  ∀ (s : State) (w : Word), s.status = .running → s.fetch = .ok w → (∃ e, decode w = .error e) →
    step s = .fault .reservedInstruction ∧
    runStep s = { s with status := .faulted .reservedInstruction s.pc }

/-- Words of the spec's examples, one of each family, decode to the instructions they stand for. A sanity
statement (40_int_register.md R104, 41_moves.md R120, 42_fp_arith_convert.md R132, 43_int_muldiv.md R152,
44_fp_compare.md R163, 45_control_transfer.md R181, R183, 46_int_immediate.md R201, 47_trap_rfe.md R221,
48_loads_stores.md R237, R238). -/
def Obligations.SampleWordsDecode : Prop :=
  decode 0x00221820 = .ok (.add 3 1 2) ∧ decode 0x00A00030 = .ok (.movi2s 5) ∧
  decode 0x04221800 = .ok (.addf 3 1 2) ∧ decode 0x0422180F = .ok (.div 3 1 2) ∧
  decode 0x04220012 = .ok (.ltf 1 2) ∧ decode 0x0BFFFFFC = .ok (.j (-4)) ∧
  decode 0x10800004 = .ok (.beqz 4 4) ∧ decode 0x2023FFFB = .ok (.addi 3 1 (-5)) ∧
  decode 0x44000005 = .ok (.trap 5) ∧ decode 0x9C440000 = .ok (.ld 4 2 0) ∧
  decode 0xA002007B = .ok (.sb 2 0 123)

/-- A well-formed instruction, written as an assembler's user writes it, assembles to itself
(30_encoding.md R71 to R73, R76, R78). For J, JAL, BEQZ, BNEZ, BFPT and BFPF the spelling has the offset as an
immediate: that is the model's own choice (DESIGN CHOICE, log entry 19; R74 gives the target as a label). -/
def Obligations.CanonicalSpellingAssembles : Prop :=
  ∀ (d : DregField) (i : Instr), i.wellFormed d = true → assembleInstr d (disassemble d i) = .ok i

/-- The assembler writes well-formed instructions only: it refuses what lies outside the ranges of
30_encoding.md R72 and R78. -/
def Obligations.AssemblerWritesWellFormedOnly : Prop :=
  ∀ (d : DregField) (x : AsmInstr) (i : Instr), assembleInstr d x = .ok i → i.wellFormed d = true

/-! ### The step -/

/-- A step runs the instruction the fetched word decodes to (70_reset_and_hazards.md R360), but where the
check of its operand reads fails: then the run ends with nothing else changed (10_state.md R14, under the launch
parameter `faults`, log entry 2). -/
def Obligations.StepRunsTheDecodedInstruction : Prop :=
  ∀ (s : State) (w : Word) (i : Instr), s.status = .running → s.fetch = .ok w → decode w = .ok i →
    (s.stopsUnwritten i = false → step s = exec i s) ∧
    (s.stopsUnwritten i = true → step s = .next { s with status := .faulted .unwrittenRead s.pc })

/-- When the four bytes at pc are those of an instruction, big-endian, and may be fetched, the step runs
it (20_memory.md R38, 70_reset_and_hazards.md R360). -/
def Obligations.StepRunsTheInstructionAtPc : Prop :=
  ∀ (s : State) (i : Instr), s.status = .running → s.pc.toNat % 4 = 0 →
    Params.InRange s.params s.pc.toNat 4 →
    (s.params.allowSmc = true ∨ ∀ k, k < 4 → s.pc.toNat + k ∉ s.modified) →
    (∀ k, k < 4 → s.mem.read (s.pc.toNat + k) = byteOfWord (encode i) k) →
    step s = execChecked i s

/-- An instruction the host places where the machine fetches is the next one to run
(70_reset_and_hazards.md R352; log entry 12). -/
def Obligations.PlacedInstructionRunsNext : Prop :=
  ∀ (s : State) (i : Instr), s.mem.wf = true → s.pc.toNat % 4 = 0 →
    Params.InRange s.params s.pc.toNat 4 →
    step (s.withFetchWord 32 (encode i).toNat) = execChecked i (s.withFetchWord 32 (encode i).toNat)

/-- The fetch reads the big-endian word at pc after its three checks, in order, and a fetch fault changes no
state but the status (20_memory.md R38). -/
def Obligations.FetchChecksInOrder : Prop :=
  (∀ s : State, s.pc.toNat % 4 ≠ 0 → s.fetch = .error .fetchMisaligned) ∧
  (∀ s : State, s.pc.toNat % 4 = 0 →
    (s.pc.toNat < s.params.memBase.toNat ∨ s.params.memBase.toNat + s.params.memSize < s.pc.toNat + 4) →
    s.fetch = .error .fetchOutOfRange) ∧
  (∀ s : State, s.pc.toNat % 4 = 0 → Params.InRange s.params s.pc.toNat 4 → s.params.allowSmc = false →
    (∃ k, k < 4 ∧ s.pc.toNat + k ∈ s.modified) → s.fetch = .error .fetchModified) ∧
  (∀ s : State, s.pc.toNat % 4 = 0 → Params.InRange s.params s.pc.toNat 4 →
    (s.params.allowSmc = true ∨ ∀ k, k < 4 → s.pc.toNat + k ∉ s.modified) →
    ∃ w, s.fetch = .ok w ∧ ∀ k, k < 4 →
      w.extractLsb' (24 - 8 * k) 8 = s.mem.read (s.pc.toNat + k)) ∧
  (∀ (s : State) (k : Fault), s.status = .running → s.fetch = .error k →
    step s = .fault k ∧ runStep s = { s with status := .faulted k.kind s.pc })

/-- A step that faults writes nothing, leaves pc at the instruction, makes the status faulted, and no
further step is taken (60_exceptions.md R303). -/
def Obligations.FaultStopsTheRunUnchanged : Prop :=
  (∀ (s : State) (k : Fault), step s = .fault k →
    runStep s = { s with status := .faulted k.kind s.pc } ∧ runStep (runStep s) = runStep s) ∧
  (∀ (s : State) (w : Word) (i : Instr), s.status = .running → s.fetch = .ok w → decode w = .ok i →
    s.stopsUnwritten i = true →
    runStep s = { s with status := .faulted .unwrittenRead s.pc } ∧ runStep (runStep s) = runStep s)

/-- The run status: it starts running, a TRAP answered Halt makes it halted with pc after the TRAP and
nothing else does, a fault makes it faulted with pc at the instruction, and a final state never changes
(70_reset_and_hazards.md R362; the form of TrapService is log entry 7, and that the model's step
of a final state answers it again is log entry 10). -/
def Obligations.RunStatusAndFinalStates : Prop :=
  (∀ p : Params, (State.resetWith p).status = .running) ∧
  (∀ (s : State) (n : Dest26), s.saved = none → s.params.trapMode = .environment →
    s.handedOver.serviceAnswer n = .halt →
    ∃ t, exec (.trap n) s = .next t ∧ t.status = .halted n ∧ t.pc = s.pc + 4) ∧
  (∀ (s t : State) (n : Dest26), s.status = .running → step s = .next t → t.status = .halted n →
    (∃ w, s.fetch = .ok w ∧ decode w = .ok (.trap n)) ∧
    s.handedOver.serviceAnswer n = .halt ∧ t.pc = s.pc + 4) ∧
  (∀ (s : State) (k : Fault), step s = .fault k →
    (runStep s).status = .faulted k.kind s.pc ∧ (runStep s).pc = s.pc) ∧
  (∀ s : State, s.Final → step s = .next s ∧ runStep s = s)

/-! ### Reset and registers -/

/-- What reset leaves, under any launch parameters, and the default parameters (10_state.md R27,
70_reset_and_hazards.md R350, 00_scope.md R4). -/
def Obligations.ResetLeavesTheStatedState : Prop :=
  (∀ p : Params, (State.resetWith p).readR 0 = 0 ∧
    (∀ i, i ≠ 0 → ((State.resetWith p).r.get i).written = false) ∧
    (∀ i, ((State.resetWith p).f.get i).written = false) ∧
    (State.resetWith p).fpsr.written = false ∧ (State.resetWith p).special.written = false ∧
    (State.resetWith p).pc = p.resetPc ∧ (State.resetWith p).saved = none ∧
    (State.resetWith p).modified = [] ∧ (State.resetWith p).status = .running) ∧
  Sys2Proof.core.reset = State.resetWith Config.defaults ∧
  Config.defaults.memBase = 0 ∧ Config.defaults.resetPc = 0 ∧ Config.defaults.linkDelta = .four ∧
  Config.defaults.dregField = .evenFIndex ∧ Config.defaults.trapMode = .environment ∧
  Config.defaults.trapService = .script [] .halt ∧ Config.defaults.allowSmc = false

/-- R0 reads 0 in every state and counts as written (10_state.md R11). -/
def Obligations.R0ReadsZeroInEveryState : Prop :=
  ∀ s : State, s.readR 0 = 0 ∧ s.hasWritten (.int 0) = true

/-- A read of a register nothing has written. Under the launch parameter `faults`, which is 10_state.md R14, the
instruction does nothing, whatever the values of its operands, and the run ends as `faulted(UnwrittenRead, A)`
(60_exceptions.md R305 (4)). Under the others, which are the model's own (log entry 2), it goes on with the
value the register has held since reset. Where no unwritten register is read the parameter does not show: two
states that differ at most in values nothing has written give the same fault, or next states that differ at most
so (92_eei_decisions.md D7; a service of which nothing is known may look at such a value). -/
def Obligations.UnwrittenRegistersFault : Prop :=
  (∀ (s : State) (rd rs rc : RegNum), rs ≠ 0 → (s.r.get rs).written = false →
    StopsUnwritten (.add rd rs rc) s ∧ StopsUnwritten (.div rd rs rc) s ∧
    StopsUnwritten (.add rd rc rs) s ∧ StopsUnwritten (.div rd rc rs) s) ∧
  (∀ (s : State) (rd rs : RegNum) (imm : Imm16), rs ≠ 0 → (s.r.get rs).written = false →
    StopsUnwritten (.addi rd rs imm) s ∧ StopsUnwritten (.movi2s rs) s ∧
    StopsUnwritten (.movi2fp rd rs) s ∧ StopsUnwritten (.cvti2f rd rs) s ∧
    StopsUnwritten (.beqz rs imm) s ∧ StopsUnwritten (.bnez rs imm) s ∧
    StopsUnwritten (.jr rs) s ∧ StopsUnwritten (.jalr rs) s) ∧
  (∀ (s : State) (imm : Imm16), s.fpsr.written = false →
    StopsUnwritten (.bfpt imm) s ∧ StopsUnwritten (.bfpf imm) s) ∧
  (∀ (s : State) (rd : RegNum), s.special.written = false → StopsUnwritten (.movs2i rd) s) ∧
  (∀ (s : State) (rd fs fc : RegNum), (s.f.get fs).written = false →
    StopsUnwritten (.movf rd fs) s ∧ StopsUnwritten (.movfp2i rd fs) s ∧
    StopsUnwritten (.addf rd fs fc) s ∧ StopsUnwritten (.addf rd fc fs) s ∧
    StopsUnwritten (.cvtf2i rd fs) s ∧ StopsUnwritten (.eqf fs fc) s ∧
    StopsUnwritten (.eqf fc fs) s) ∧
  (∀ (s : State) (dd ds : RegNum) (pd ps : Pair), s.pair dd = .ok pd → s.pair ds = .ok ps →
    (s.f.get ps.hi).written = false ∨ (s.f.get ps.lo).written = false →
    StopsUnwritten (.movd dd ds) s ∧ StopsUnwritten (.addd dd dd ds) s) ∧
  (∀ (i : Instr) (s : State), s.params.unwritten ≠ .faults ∨ s.readsUnwritten i = false →
    execChecked i s = exec i s) ∧
  (∀ (i : Instr) (s t : State), s.params.trapService ≠ .any → s.readsUnwritten i = false → s.Agrees t →
    OutcomesAgree (exec i s) (exec i t)) ∧
  (∀ (s : State) (w : Word) (i : Instr), s.status = .running → s.fetch = .ok w → decode w = .ok i →
    step s = execChecked i s)

/-- Double registers: what a field names under each coding, how a pair is read and written, and that every
D field is checked before anything else (10_state.md R17, R18). -/
def Obligations.DoubleRegisterNaming : Prop :=
  (Config.defaults.dregField = .evenFIndex) ∧
  (∀ k : RegNum, k.val % 2 = 0 →
    ∃ p, DregField.pair .evenFIndex k = .ok p ∧ p.hi.val = k.val ∧ p.lo.val = k.val + 1) ∧
  (∀ k : RegNum, k.val % 2 = 1 → DregField.pair .evenFIndex k = .error .reservedDoubleRegister) ∧
  (∀ k : RegNum, k.val < 16 →
    ∃ p, DregField.pair .dIndex k = .ok p ∧ p.hi.val = 2 * k.val ∧ p.lo.val = 2 * k.val + 1) ∧
  (∀ k : RegNum, 16 ≤ k.val → DregField.pair .dIndex k = .error .reservedDoubleRegister) ∧
  (∀ (s : State) (p : Pair), s.readPair p = s.readF p.hi ++ s.readF p.lo) ∧
  (∀ (s : State) (k : RegNum) (p : Pair) (v : DWord), s.pair k = .ok p →
    WritesPair p v s (s.writePair p v) ∧ (s.writePair p v).readPair p = v) ∧
  (∀ (i : Instr) (s : State) (k : RegNum), k ∈ i.doubleFields →
    s.pair k = .error .reservedDoubleRegister →
    exec i s = .fault .reservedDoubleRegister ∧
    execChecked i s = .fault .reservedDoubleRegister)

/-! ### Integer instructions -/

/-- The register shifts use the five low bits of `Rc`, and nothing else of it; a shift by 0 copies
(40_int_register.md R118, with R101 to R103). -/
def Obligations.RegisterShiftResults : Prop :=
  (∀ (s : State) (rd rs rc : RegNum) (a b : Word), s.readR rs = a → s.readR rc = b →
    Completes (exec (.sll rd rs rc) s) (IntResult s rd (a <<< (b.toNat % 32))) ∧
    Completes (exec (.srl rd rs rc) s) (IntResult s rd (a >>> (b.toNat % 32))) ∧
    Completes (exec (.sra rd rs rc) s) (IntResult s rd (a.sshiftRight (b.toNat % 32)))) ∧
  (∀ (s : State) (rd rs rc : RegNum) (a b : Word), s.readR rs = a → s.readR rc = b →
    b.toNat % 32 = 0 →
    Completes (exec (.sll rd rs rc) s) (IntResult s rd a) ∧
    Completes (exec (.srl rd rs rc) s) (IntResult s rd a) ∧
    Completes (exec (.sra rd rs rc) s) (IntResult s rd a))

/-- Sums, differences and bitwise operations of registers, modulo 2^32 (40_int_register.md R100, R104 to
R110, R117). -/
def Obligations.RegisterArithmeticResults : Prop :=
  ∀ (s : State) (rd rs rc : RegNum) (a b : Word), s.readR rs = a → s.readR rc = b →
    Completes (exec (.add rd rs rc) s) (IntResult s rd (a + b)) ∧
    Completes (exec (.addu rd rs rc) s) (IntResult s rd (a + b)) ∧
    Completes (exec (.sub rd rs rc) s) (IntResult s rd (a - b)) ∧
    Completes (exec (.subu rd rs rc) s) (IntResult s rd (a - b)) ∧
    Completes (exec (.and rd rs rc) s) (IntResult s rd (a &&& b)) ∧
    Completes (exec (.or rd rs rc) s) (IntResult s rd (a ||| b)) ∧
    Completes (exec (.xor rd rs rc) s) (IntResult s rd (a ^^^ b))

/-- The six set-on-compare instructions write 1 or 0; the orders are signed (40_int_register.md R119, with
R111 to R116). -/
def Obligations.RegisterSetResults : Prop :=
  ∀ (s : State) (rd rs rc : RegNum) (a b : Word), s.readR rs = a → s.readR rc = b →
    Completes (exec (.seq rd rs rc) s) (IntResult s rd (if a = b then 1 else 0)) ∧
    Completes (exec (.sne rd rs rc) s) (IntResult s rd (if a = b then 0 else 1)) ∧
    Completes (exec (.slt rd rs rc) s) (IntResult s rd (if a.slt b then 1 else 0)) ∧
    Completes (exec (.sgt rd rs rc) s) (IntResult s rd (if b.slt a then 1 else 0)) ∧
    Completes (exec (.sle rd rs rc) s) (IntResult s rd (if a.sle b then 1 else 0)) ∧
    Completes (exec (.sge rd rs rc) s) (IntResult s rd (if b.sle a then 1 else 0))

/-- MULT and MULTU write the low 32 bits of the product, the same bits (43_int_muldiv.md R150, R151,
R153). -/
def Obligations.MultiplyResults : Prop :=
  ∀ (s : State) (rd rs rc : RegNum) (a b : Word), s.readR rs = a → s.readR rc = b →
    Completes (exec (.mult rd rs rc) s) (IntResult s rd (a * b)) ∧
    Completes (exec (.multu rd rs rc) s) (IntResult s rd (a * b))

/-- DIV rounds toward zero, DIVU down; a zero divisor is the fault DivideByZero; the overflowing quotient
wraps (43_int_muldiv.md R150, R152, R154). -/
def Obligations.DivideResults : Prop :=
  (∀ (s : State) (rd rs rc : RegNum) (a b : Word), s.readR rs = a → s.readR rc = b → b ≠ 0 →
    Completes (exec (.div rd rs rc) s) (IntResult s rd (a.sdiv b)) ∧
    Completes (exec (.divu rd rs rc) s) (IntResult s rd (a / b))) ∧
  (∀ (s : State) (rd rs rc : RegNum) (a : Word), s.readR rs = a → s.readR rc = 0 →
    exec (.div rd rs rc) s = .fault .divideByZero ∧ exec (.divu rd rs rc) s = .fault .divideByZero) ∧
  (∀ (s : State) (rd rs rc : RegNum), s.readR rs = 0x80000000 → s.readR rc = 0xFFFFFFFF →
    Completes (exec (.div rd rs rc) s) (IntResult s rd 0x80000000))

/-- Arithmetic and bitwise operations with an immediate: sign-extended for ADDI and SUBI, zero-extended for
the others, high half for LHI, which reads no register; and shifts by the five low bits of the immediate, the
rest of it ignored (46_int_immediate.md R200 to R211). -/
def Obligations.ImmediateArithmeticResults : Prop :=
  (∀ (s : State) (rd rs : RegNum) (imm : Imm16) (a : Word), s.readR rs = a →
    Completes (exec (.addi rd rs imm) s) (IntResult s rd (a + imm.signExtend 32)) ∧
    Completes (exec (.addui rd rs imm) s) (IntResult s rd (a + imm.zeroExtend 32)) ∧
    Completes (exec (.subi rd rs imm) s) (IntResult s rd (a - imm.signExtend 32)) ∧
    Completes (exec (.subui rd rs imm) s) (IntResult s rd (a - imm.zeroExtend 32)) ∧
    Completes (exec (.andi rd rs imm) s) (IntResult s rd (a &&& imm.zeroExtend 32)) ∧
    Completes (exec (.ori rd rs imm) s) (IntResult s rd (a ||| imm.zeroExtend 32)) ∧
    Completes (exec (.xori rd rs imm) s) (IntResult s rd (a ^^^ imm.zeroExtend 32)) ∧
    Completes (exec (.slli rd rs imm) s) (IntResult s rd (a <<< (imm.toNat % 32))) ∧
    Completes (exec (.srli rd rs imm) s) (IntResult s rd (a >>> (imm.toNat % 32))) ∧
    Completes (exec (.srai rd rs imm) s) (IntResult s rd (a.sshiftRight (imm.toNat % 32)))) ∧
  (∀ (s : State) (rd : RegNum) (imm : Imm16),
    Completes (exec (.lhi rd imm) s) (IntResult s rd (imm.zeroExtend 32 <<< 16)))

/-- Set on comparison with the sign-extended immediate, signed (46_int_immediate.md R212 to R217). -/
def Obligations.ImmediateSetResults : Prop :=
  ∀ (s : State) (rd rs : RegNum) (imm : Imm16) (a : Word), s.readR rs = a →
    Completes (exec (.seqi rd rs imm) s) (IntResult s rd (if a = imm.signExtend 32 then 1 else 0)) ∧
    Completes (exec (.snei rd rs imm) s) (IntResult s rd (if a = imm.signExtend 32 then 0 else 1)) ∧
    Completes (exec (.slti rd rs imm) s) (IntResult s rd (if a.toInt < imm.toInt then 1 else 0)) ∧
    Completes (exec (.sgti rd rs imm) s) (IntResult s rd (if imm.toInt < a.toInt then 1 else 0)) ∧
    Completes (exec (.slei rd rs imm) s) (IntResult s rd (if a.toInt ≤ imm.toInt then 1 else 0)) ∧
    Completes (exec (.sgei rd rs imm) s) (IntResult s rd (if imm.toInt ≤ a.toInt then 1 else 0))

/-- The moves copy bit patterns, between integer registers, single registers and special
(41_moves.md R120 to R122, R124 to R126). -/
def Obligations.MoveResults : Prop :=
  (∀ (s : State) (rs : RegNum) (a : Word), s.readR rs = a →
    Completes (exec (.movi2s rs) s) (SpecialResult s a)) ∧
  (∀ (s : State) (rd : RegNum) (a : Word), s.readSpecial = a →
    Completes (exec (.movs2i rd) s) (IntResult s rd a)) ∧
  (∀ (s : State) (fd fs : RegNum) (a : Word), s.readF fs = a →
    Completes (exec (.movf fd fs) s) fun t => SingleWrite s fd a t ∧ t.draws = s.draws) ∧
  (∀ (s : State) (rd fs : RegNum) (a : Word), s.readF fs = a →
    Completes (exec (.movfp2i rd fs) s) (IntResult s rd a)) ∧
  (∀ (s : State) (fd rs : RegNum) (a : Word), s.readR rs = a →
    Completes (exec (.movi2fp fd rs) s) fun t => SingleWrite s fd a t ∧ t.draws = s.draws)

/-- MOVD copies both halves, read before either is written (41_moves.md R123, R126; 10_state.md R15). -/
def Obligations.MoveDoubleResults : Prop :=
  ∀ (s : State) (dd ds : RegNum) (pd ps : Pair) (hi lo : Word), s.pair dd = .ok pd → s.pair ds = .ok ps →
    s.readF ps.hi = hi → s.readF ps.lo = lo →
    Completes (exec (.movd dd ds) s) fun t => DoubleWrite s pd (hi ++ lo) t ∧ t.draws = s.draws

/-! ### Floating point -/

/-- ADDF, SUBF, MULTF and DIVF write the result of the numerics to the single register, a NaN result being
any NaN, log entry 8 (42_fp_arith_convert.md R131, R132 to R135, R148). -/
def Obligations.SingleArithmeticResults : Prop :=
  ∀ (s : State) (fd fs fc : RegNum) (a b : Word), s.readF fs = a → s.readF fc = b →
    Completes (exec (.addf fd fs fc) s) (SingleResult s fd (fpAdd32 a b)) ∧
    Completes (exec (.subf fd fs fc) s) (SingleResult s fd (fpSub32 a b)) ∧
    Completes (exec (.multf fd fs fc) s) (SingleResult s fd (fpMul32 a b)) ∧
    Completes (exec (.divf fd fs fc) s) (SingleResult s fd (fpDiv32 a b))

/-- ADDD, SUBD, MULTD and DIVD, likewise for double registers (42_fp_arith_convert.md R131, R136 to R139,
R148). -/
def Obligations.DoubleArithmeticResults : Prop :=
  ∀ (s : State) (dd ds dc : RegNum) (pd ps pc : Pair) (a b : DWord), s.pair dd = .ok pd →
    s.pair ds = .ok ps → s.pair dc = .ok pc → s.readPair ps = a → s.readPair pc = b →
    Completes (exec (.addd dd ds dc) s) (DoubleResult s pd (fpAdd64 a b)) ∧
    Completes (exec (.subd dd ds dc) s) (DoubleResult s pd (fpSub64 a b)) ∧
    Completes (exec (.multd dd ds dc) s) (DoubleResult s pd (fpMul64 a b)) ∧
    Completes (exec (.divd dd ds dc) s) (DoubleResult s pd (fpDiv64 a b))

/-- The conversions write their results to the registers named; an integer result without a stated value is
any value, log entry 9 (42_fp_arith_convert.md R140 to R146, R148). -/
def Obligations.ConversionResults : Prop :=
  (∀ (s : State) (dd fs : RegNum) (pd : Pair) (a : Word), s.pair dd = .ok pd → s.readF fs = a →
    Completes (exec (.cvtf2d dd fs) s) (DoubleResult s pd (fpF2D a))) ∧
  (∀ (s : State) (rd fs : RegNum) (a : Word), s.readF fs = a →
    Completes (exec (.cvtf2i rd fs) s) (IntOrAnyResult s rd (fpF2I a))) ∧
  (∀ (s : State) (fd ds : RegNum) (ps : Pair) (a : DWord), s.pair ds = .ok ps → s.readPair ps = a →
    Completes (exec (.cvtd2f fd ds) s) (SingleResult s fd (fpD2F a))) ∧
  (∀ (s : State) (rd ds : RegNum) (ps : Pair) (a : DWord), s.pair ds = .ok ps → s.readPair ps = a →
    Completes (exec (.cvtd2i rd ds) s) (IntOrAnyResult s rd (fpD2I a))) ∧
  (∀ (s : State) (fd rs : RegNum) (a : Word), s.readR rs = a →
    Completes (exec (.cvti2f fd rs) s) (SingleResult s fd (fpI2F a))) ∧
  (∀ (s : State) (dd rs : RegNum) (pd : Pair) (a : Word), s.pair dd = .ok pd → s.readR rs = a →
    Completes (exec (.cvti2d dd rs) s) (DoubleResult s pd (fpI2D a)))

/-- The single comparisons write fpsr alone, by the outcome of the comparison (44_fp_compare.md R160 to
R166). -/
def Obligations.SingleCompareResults : Prop :=
  ∀ (s : State) (fs fc : RegNum) (a b : Word), s.readF fs = a → s.readF fc = b →
    Completes (exec (.eqf fs fc) s) (FpsrResult s (decide (fpCmp32 a b = .eq))) ∧
    Completes (exec (.nef fs fc) s) (FpsrResult s (decide (fpCmp32 a b ≠ .eq))) ∧
    Completes (exec (.ltf fs fc) s) (FpsrResult s (decide (fpCmp32 a b = .lt))) ∧
    Completes (exec (.gtf fs fc) s) (FpsrResult s (decide (fpCmp32 a b = .gt))) ∧
    Completes (exec (.lef fs fc) s) (FpsrResult s (decide (fpCmp32 a b = .lt ∨ fpCmp32 a b = .eq))) ∧
    Completes (exec (.gef fs fc) s) (FpsrResult s (decide (fpCmp32 a b = .gt ∨ fpCmp32 a b = .eq)))

/-- The double comparisons write fpsr alone, by the outcome of the comparison (44_fp_compare.md R160, R167
to R172). -/
def Obligations.DoubleCompareResults : Prop :=
  ∀ (s : State) (ds dc : RegNum) (ps pc : Pair) (a b : DWord), s.pair ds = .ok ps → s.pair dc = .ok pc →
    s.readPair ps = a → s.readPair pc = b →
    Completes (exec (.eqd ds dc) s) (FpsrResult s (decide (fpCmp64 a b = .eq))) ∧
    Completes (exec (.ned ds dc) s) (FpsrResult s (decide (fpCmp64 a b ≠ .eq))) ∧
    Completes (exec (.ltd ds dc) s) (FpsrResult s (decide (fpCmp64 a b = .lt))) ∧
    Completes (exec (.gtd ds dc) s) (FpsrResult s (decide (fpCmp64 a b = .gt))) ∧
    Completes (exec (.led ds dc) s) (FpsrResult s (decide (fpCmp64 a b = .lt ∨ fpCmp64 a b = .eq))) ∧
    Completes (exec (.ged ds dc) s) (FpsrResult s (decide (fpCmp64 a b = .gt ∨ fpCmp64 a b = .eq)))

/-- The two formats are binary32 and binary64: what the sign, exponent and fraction fields of a pattern
denote. A unit is the smallest subnormal, 2^-149 or 2^-1074 (42_fp_arith_convert.md R130). -/
def Obligations.PatternsDenoteIeeeValues : Prop :=
  (∀ v : Word,
    let sign := v.getLsbD 31
    let expo := (v.extractLsb' 23 8).toNat
    let frac := (v.extractLsb' 0 23).toNat
    (expo = 255 → frac = 0 → single v = .inf sign) ∧ (expo = 255 → frac ≠ 0 → single v = .nan) ∧
    (expo = 0 → single v = .finite sign frac) ∧
    (0 < expo → expo < 255 → single v = .finite sign ((2 ^ 23 + frac) * 2 ^ (expo - 1)))) ∧
  (∀ v : DWord,
    let sign := v.getLsbD 63
    let expo := (v.extractLsb' 52 11).toNat
    let frac := (v.extractLsb' 0 52).toNat
    (expo = 2047 → frac = 0 → double v = .inf sign) ∧ (expo = 2047 → frac ≠ 0 → double v = .nan) ∧
    (expo = 0 → double v = .finite sign frac) ∧
    (0 < expo → expo < 2047 → double v = .finite sign ((2 ^ 52 + frac) * 2 ^ (expo - 1)))) ∧
  binary32.one = 2 ^ 149 ∧ binary64.one = 2 ^ 1074

/-- A result is a NaN exactly when an operand is a NaN or the operation is invalid
(42_fp_arith_convert.md R131 (a)). -/
def Obligations.NanResultsExactlyWhenInvalid : Prop :=
  (∀ a b : Word,
    (fpAdd32 a b = .anyNan ↔ single a = .nan ∨ single b = .nan ∨
      ∃ x, single a = .inf x ∧ single b = .inf (!x)) ∧
    (fpSub32 a b = .anyNan ↔ single a = .nan ∨ single b = .nan ∨
      ∃ x, single a = .inf x ∧ single b = .inf x) ∧
    (fpMul32 a b = .anyNan ↔ single a = .nan ∨ single b = .nan ∨
      (∃ x y, single a = .inf x ∧ single b = .finite y 0) ∨
      ∃ x y, single a = .finite x 0 ∧ single b = .inf y) ∧
    (fpDiv32 a b = .anyNan ↔ single a = .nan ∨ single b = .nan ∨
      (∃ x y, single a = .inf x ∧ single b = .inf y) ∨
      ∃ x y, single a = .finite x 0 ∧ single b = .finite y 0) ∧
    (fpF2D a = .anyNan ↔ single a = .nan) ∧ fpI2F a ≠ .anyNan ∧ fpI2D a ≠ .anyNan) ∧
  (∀ a b : DWord,
    (fpAdd64 a b = .anyNan ↔ double a = .nan ∨ double b = .nan ∨
      ∃ x, double a = .inf x ∧ double b = .inf (!x)) ∧
    (fpSub64 a b = .anyNan ↔ double a = .nan ∨ double b = .nan ∨
      ∃ x, double a = .inf x ∧ double b = .inf x) ∧
    (fpMul64 a b = .anyNan ↔ double a = .nan ∨ double b = .nan ∨
      (∃ x y, double a = .inf x ∧ double b = .finite y 0) ∨
      ∃ x y, double a = .finite x 0 ∧ double b = .inf y) ∧
    (fpDiv64 a b = .anyNan ↔ double a = .nan ∨ double b = .nan ∨
      (∃ x y, double a = .inf x ∧ double b = .inf y) ∨
      ∃ x y, double a = .finite x 0 ∧ double b = .finite y 0) ∧
    (fpD2F a = .anyNan ↔ double a = .nan))

/-- Every sum, difference, product, quotient and conversion of finite numbers is the exact result rounded to
nearest, ties to even, overflow going to infinity (42_fp_arith_convert.md R131, R140). -/
def Obligations.ArithmeticIsCorrectlyRounded : Prop :=
  (∀ (a b : Word) (x y : Bool) (m n : Nat), single a = .finite x m → single b = .finite y n →
    CorrectlyRounded binary32 (fpAdd32 a b) (signedUnits x m + signedUnits y n) 1 ∧
    CorrectlyRounded binary32 (fpSub32 a b) (signedUnits x m - signedUnits y n) 1 ∧
    CorrectlyRounded binary32 (fpMul32 a b) (signedUnits x m * signedUnits y n) binary32.one ∧
    (n ≠ 0 → CorrectlyRounded binary32 (fpDiv32 a b) (signedUnits (x != y) (m * binary32.one)) n) ∧
    CorrectlyRounded binary64 (fpF2D a) (signedUnits x m * binary64.one) binary32.one) ∧
  (∀ (a b : DWord) (x y : Bool) (m n : Nat), double a = .finite x m → double b = .finite y n →
    CorrectlyRounded binary64 (fpAdd64 a b) (signedUnits x m + signedUnits y n) 1 ∧
    CorrectlyRounded binary64 (fpSub64 a b) (signedUnits x m - signedUnits y n) 1 ∧
    CorrectlyRounded binary64 (fpMul64 a b) (signedUnits x m * signedUnits y n) binary64.one ∧
    (n ≠ 0 → CorrectlyRounded binary64 (fpDiv64 a b) (signedUnits (x != y) (m * binary64.one)) n) ∧
    CorrectlyRounded binary32 (fpD2F a) (signedUnits x m * binary32.one) binary64.one) ∧
  (∀ a : Word, CorrectlyRounded binary32 (fpI2F a) (a.toInt * binary32.one) 1 ∧
    CorrectlyRounded binary64 (fpI2D a) (a.toInt * binary64.one) 1)

/-- Zeros and infinities, in both formats: `x + (-x)` and `x - x` are +0, a sum or difference of zeros is -0
only when both its terms are, every sum, difference, product and quotient with an infinity on either side that
is not invalid, products and quotients take the exclusive-or of the signs, a zero over a number that is not
zero is a zero and such a number over a zero an infinity, with no trap; and the integer 0 converts to +0
(42_fp_arith_convert.md R131 (b), R132 to R135, R145). -/
def Obligations.ZeroAndInfinityResults : Prop :=
  ZeroAndInfinityRules single fpAdd32 fpSub32 fpMul32 fpDiv32
    (fun neg => .pattern (if neg then 0x80000000 else 0))
    (fun neg => .pattern (if neg then 0xFF800000 else 0x7F800000)) ∧
  ZeroAndInfinityRules double fpAdd64 fpSub64 fpMul64 fpDiv64
    (fun neg => .pattern (if neg then 0x8000000000000000 else 0))
    (fun neg => .pattern (if neg then 0xFFF0000000000000 else 0x7FF0000000000000)) ∧
  fpI2F 0 = .pattern 0 ∧ fpI2D 0 = .pattern 0

/-- Widening a single that is no NaN is exact, and narrowing the double back gives the same pattern
(42_fp_arith_convert.md R140, R141). -/
def Obligations.WideningIsExact : Prop :=
  ∀ a : Word, single a ≠ .nan → ∃ v : DWord, fpF2D a = .pattern v.toNat ∧
    (∀ x, single a = .inf x → double v = .inf x) ∧
    (∀ x m, single a = .finite x m → double v = .finite x (m * 2 ^ 925)) ∧
    fpD2F v = .pattern a.toNat

/-- Every signed integer is a double exactly, and converts back to itself; up to 2^24 the same holds of
singles (42_fp_arith_convert.md R140, R145, R146). -/
def Obligations.IntegersConvertExactly : Prop :=
  (∀ a : Word, ∃ v : DWord, fpI2D a = .pattern v.toNat ∧
    (∃ x m, double v = .finite x m ∧ signedUnits x m = a.toInt * 2 ^ 1074) ∧ fpD2I v = some a) ∧
  (∀ a : Word, a.toInt.natAbs ≤ 2 ^ 24 → ∃ v : Word, fpI2F a = .pattern v.toNat ∧
    (∃ x m, single v = .finite x m ∧ signedUnits x m = a.toInt * 2 ^ 149) ∧ fpF2I v = some a)

/-- A conversion to integer truncates toward zero where the result fits 32 bits, and has no stated value
otherwise (42_fp_arith_convert.md R140, R142, R144). -/
def Obligations.ConversionToIntegerTruncates : Prop :=
  (∀ a : Word,
    (∀ x m, single a = .finite x m →
      let q := signedUnits x (m / 2 ^ 149)
      (-2147483648 ≤ q → q ≤ 2147483647 → ∃ w, fpF2I a = some w ∧ w.toInt = q) ∧
      (q < -2147483648 ∨ 2147483647 < q → fpF2I a = none)) ∧
    (single a = .nan → fpF2I a = none) ∧ (∀ x, single a = .inf x → fpF2I a = none)) ∧
  (∀ a : DWord,
    (∀ x m, double a = .finite x m →
      let q := signedUnits x (m / 2 ^ 1074)
      (-2147483648 ≤ q → q ≤ 2147483647 → ∃ w, fpD2I a = some w ∧ w.toInt = q) ∧
      (q < -2147483648 ∨ 2147483647 < q → fpD2I a = none)) ∧
    (double a = .nan → fpD2I a = none) ∧ (∀ x, double a = .inf x → fpD2I a = none))

/-- Comparison is by numeric value: the zeros are equal, an infinity equals itself and lies beyond every
finite number, a NaN is unordered with everything; and what each of the six predicates holds on
(44_fp_compare.md R173). -/
def Obligations.ComparisonIsByValue : Prop :=
  (∀ a b : Word,
    (fpCmp32 a b = .unordered ↔ single a = .nan ∨ single b = .nan) ∧
    (∀ x m y n, single a = .finite x m → single b = .finite y n →
      (fpCmp32 a b = .lt ↔ signedUnits x m < signedUnits y n) ∧
      (fpCmp32 a b = .eq ↔ signedUnits x m = signedUnits y n) ∧
      (fpCmp32 a b = .gt ↔ signedUnits x m > signedUnits y n)) ∧
    (∀ x, single a = .inf x → single b = .inf x → fpCmp32 a b = .eq) ∧
    (single a = .inf false → single b ≠ .nan → single b ≠ .inf false → fpCmp32 a b = .gt) ∧
    (single a = .inf true → single b ≠ .nan → single b ≠ .inf true → fpCmp32 a b = .lt) ∧
    (fpCmp32 a b = .lt ↔ fpCmp32 b a = .gt) ∧ (fpCmp32 a b = .eq ↔ fpCmp32 b a = .eq)) ∧
  (∀ a b : DWord,
    (fpCmp64 a b = .unordered ↔ double a = .nan ∨ double b = .nan) ∧
    (∀ x m y n, double a = .finite x m → double b = .finite y n →
      (fpCmp64 a b = .lt ↔ signedUnits x m < signedUnits y n) ∧
      (fpCmp64 a b = .eq ↔ signedUnits x m = signedUnits y n) ∧
      (fpCmp64 a b = .gt ↔ signedUnits x m > signedUnits y n)) ∧
    (∀ x, double a = .inf x → double b = .inf x → fpCmp64 a b = .eq) ∧
    (double a = .inf false → double b ≠ .nan → double b ≠ .inf false → fpCmp64 a b = .gt) ∧
    (double a = .inf true → double b ≠ .nan → double b ≠ .inf true → fpCmp64 a b = .lt) ∧
    (fpCmp64 a b = .lt ↔ fpCmp64 b a = .gt) ∧ (fpCmp64 a b = .eq ↔ fpCmp64 b a = .eq)) ∧
  (∀ o : FpOrder, o.holdsEq = decide (o = .eq) ∧ o.holdsNe = (!o.holdsEq) ∧ o.holdsLt = decide (o = .lt) ∧
    o.holdsGt = decide (o = .gt) ∧ o.holdsLe = decide (o = .lt ∨ o = .eq) ∧
    o.holdsGe = decide (o = .gt ∨ o = .eq))

/-! ### Control transfers -/

/-- The jumps: unscaled signed offset from `A + 4`, or the register's value as it stands; the link value is
`A + 4 + LINK_DELTA`, and the target of JALR is the old value of its register
(45_control_transfer.md R180 to R182, R187, R188, R190, R193). -/
def Obligations.JumpResults : Prop :=
  (∀ (s : State) (dest : Dest26),
    Completes (exec (.j dest) s) (TransferResult s (s.pc + 4 + dest.signExtend 32)) ∧
    (s.params.linkDelta = .four →
      Completes (exec (.jal dest) s) (LinkResult s (s.pc + 8) (s.pc + 4 + dest.signExtend 32))) ∧
    (s.params.linkDelta = .zero →
      Completes (exec (.jal dest) s) (LinkResult s (s.pc + 4) (s.pc + 4 + dest.signExtend 32)))) ∧
  (∀ (s : State) (rs : RegNum) (a : Word), s.readR rs = a →
    Completes (exec (.jr rs) s) (TransferResult s a) ∧
    (s.params.linkDelta = .four → Completes (exec (.jalr rs) s) (LinkResult s (s.pc + 8) a)) ∧
    (s.params.linkDelta = .zero → Completes (exec (.jalr rs) s) (LinkResult s (s.pc + 4) a)))

/-- The branches: to `A + 4 + s(imm)` when taken, to `A + 4` when not (45_control_transfer.md R183 to R186,
R190, R193). -/
def Obligations.BranchResults : Prop :=
  (∀ (s : State) (rs : RegNum) (imm : Imm16) (a : Word), s.readR rs = a →
    Completes (exec (.beqz rs imm) s)
      (TransferResult s (if a = 0 then s.pc + 4 + imm.signExtend 32 else s.pc + 4)) ∧
    Completes (exec (.bnez rs imm) s)
      (TransferResult s (if a = 0 then s.pc + 4 else s.pc + 4 + imm.signExtend 32))) ∧
  (∀ (s : State) (imm : Imm16) (b : Bool), s.readFpsr = b →
    Completes (exec (.bfpt imm) s)
      (TransferResult s (if b = true then s.pc + 4 + imm.signExtend 32 else s.pc + 4)) ∧
    Completes (exec (.bfpf imm) s)
      (TransferResult s (if b = true then s.pc + 4 else s.pc + 4 + imm.signExtend 32)))

/-! ### Memory -/

/-- What a narrower access sees of a wider one (20_memory.md R33). -/
def Obligations.NarrowReadsOfWideWrites : Prop :=
  (∀ (s t : State) (a : Word) (v : Word), s.mem.wf = true → s.memWrite a 4 v = .ok t →
    (∀ k, k < 4 → t.memRead (a + BitVec.ofNat 32 k) 1 = .ok (v.extractLsb' (24 - 8 * k) 8)) ∧
    (∀ j, j < 2 → t.memRead (a + BitVec.ofNat 32 (2 * j)) 2 = .ok (v.extractLsb' (16 - 16 * j) 16))) ∧
  (∀ (s t : State) (a : Word) (v : DWord), s.mem.wf = true → s.memWrite a 8 v = .ok t →
    t.memRead a 4 = .ok (v.extractLsb' 32 32) ∧ t.memRead (a + 4) 4 = .ok (v.extractLsb' 0 32))

/-- The checks of a data access, alignment first, then range on integers without wrap-around; with launch
parameters as they must be, an aligned access that is not in range has no byte that exists
(20_memory.md R35, R36). -/
def Obligations.DataAccessChecks : Prop :=
  ∀ (s : State) (a : Word) (n : Nat), n ∈ [1, 2, 4, 8] →
    (a.toNat % n ≠ 0 → s.memRead a n = .error .dataMisaligned ∧
      ∀ v, s.memWrite a n v = .error .dataMisaligned) ∧
    (a.toNat % n = 0 →
      (a.toNat < s.params.memBase.toNat ∨ s.params.memBase.toNat + s.params.memSize < a.toNat + n) →
      s.memRead a n = .error .dataOutOfRange ∧ (∀ v, s.memWrite a n v = .error .dataOutOfRange) ∧
      (s.params.Ok → ∀ x, a.toNat ≤ x → x < a.toNat + n → ¬ Params.InRange s.params x 1)) ∧
    (a.toNat % n = 0 → s.params.memBase.toNat ≤ a.toNat →
      a.toNat + n ≤ s.params.memBase.toNat + s.params.memSize →
      (∃ v, s.memRead a n = .ok v) ∧ ∀ v, ∃ t, s.memWrite a n v = .ok t)

/-- The integer loads: the byte at the effective address is the most significant, LB and LH extend the sign,
LBU and LHU extend with zeros (48_loads_stores.md R230 to R235, R244, R246; 20_memory.md R32). -/
def Obligations.IntegerLoadResults : Prop :=
  ∀ (s : State) (rd rs : RegNum) (imm : Imm16) (base ea : Word), s.readR rs = base →
    ea = effectiveAddress base imm →
    (Params.InRange s.params ea.toNat 1 →
      Completes (exec (.lb rd rs imm) s) (IntResult s rd ((s.mem.read ea.toNat).signExtend 32)) ∧
      Completes (exec (.lbu rd rs imm) s) (IntResult s rd ((s.mem.read ea.toNat).zeroExtend 32))) ∧
    (ea.toNat % 2 = 0 → Params.InRange s.params ea.toNat 2 →
      Completes (exec (.lh rd rs imm) s)
        (IntResult s rd ((s.mem.read ea.toNat ++ s.mem.read (ea.toNat + 1)).signExtend 32)) ∧
      Completes (exec (.lhu rd rs imm) s)
        (IntResult s rd ((s.mem.read ea.toNat ++ s.mem.read (ea.toNat + 1)).zeroExtend 32))) ∧
    (ea.toNat % 4 = 0 → Params.InRange s.params ea.toNat 4 →
      Completes (exec (.lw rd rs imm) s)
        (IntResult s rd (s.mem.read ea.toNat ++ s.mem.read (ea.toNat + 1) ++ s.mem.read (ea.toNat + 2) ++
          s.mem.read (ea.toNat + 3))))

/-- LF and LD: bits unchanged, the word at the lower address to the even register
(48_loads_stores.md R230, R236, R237, R244, R246). -/
def Obligations.FloatLoadResults : Prop :=
  (∀ (s : State) (fd rs : RegNum) (imm : Imm16) (base ea : Word), s.readR rs = base →
    ea = effectiveAddress base imm → ea.toNat % 4 = 0 → Params.InRange s.params ea.toNat 4 →
    Completes (exec (.lf fd rs imm) s) fun t =>
      SingleWrite s fd (s.mem.read ea.toNat ++ s.mem.read (ea.toNat + 1) ++ s.mem.read (ea.toNat + 2) ++
        s.mem.read (ea.toNat + 3)) t ∧ t.draws = s.draws) ∧
  (∀ (s : State) (dd rs : RegNum) (imm : Imm16) (p : Pair) (base ea : Word), s.pair dd = .ok p →
    s.readR rs = base → ea = effectiveAddress base imm → ea.toNat % 8 = 0 →
    Params.InRange s.params ea.toNat 8 →
    Completes (exec (.ld dd rs imm) s) fun t =>
      DoubleWrite s p
        ((s.mem.read ea.toNat ++ s.mem.read (ea.toNat + 1) ++ s.mem.read (ea.toNat + 2) ++
          s.mem.read (ea.toNat + 3) : Word) ++
         (s.mem.read (ea.toNat + 4) ++ s.mem.read (ea.toNat + 5) ++ s.mem.read (ea.toNat + 6) ++
          s.mem.read (ea.toNat + 7) : Word)) t ∧ t.draws = s.draws)

/-- The integer stores, at the effective address: the low byte, half word or word of the register, its most
significant byte first; no other byte changes (48_loads_stores.md R230, R238 to R240, R244, R246). -/
def Obligations.IntegerStoreResults : Prop :=
  ∀ (s : State) (rd rs : RegNum) (imm : Imm16) (base v : Word), s.mem.wf = true → s.readR rs = base →
    s.readR rd = v →
    (Params.InRange s.params (effectiveAddress base imm).toNat 1 →
      Completes (exec (.sb rd rs imm) s) (StoreResult s (effectiveAddress base imm) 1 (v.setWidth 8))) ∧
    ((effectiveAddress base imm).toNat % 2 = 0 →
      Params.InRange s.params (effectiveAddress base imm).toNat 2 →
      Completes (exec (.sh rd rs imm) s) (StoreResult s (effectiveAddress base imm) 2 (v.setWidth 16))) ∧
    ((effectiveAddress base imm).toNat % 4 = 0 →
      Params.InRange s.params (effectiveAddress base imm).toNat 4 →
      Completes (exec (.sw rd rs imm) s) (StoreResult s (effectiveAddress base imm) 4 v))

/-- SF and SD, at the effective address: bits unchanged, the even register to the lower address
(48_loads_stores.md R230, R241, R242, R244, R246). -/
def Obligations.FloatStoreResults : Prop :=
  (∀ (s : State) (fd rs : RegNum) (imm : Imm16) (base v : Word), s.mem.wf = true → s.readR rs = base →
    s.readF fd = v → (effectiveAddress base imm).toNat % 4 = 0 →
    Params.InRange s.params (effectiveAddress base imm).toNat 4 →
    Completes (exec (.sf fd rs imm) s) (StoreResult s (effectiveAddress base imm) 4 v)) ∧
  (∀ (s : State) (dd rs : RegNum) (imm : Imm16) (p : Pair) (base hi lo : Word), s.mem.wf = true →
    s.pair dd = .ok p → s.readR rs = base → s.readF p.hi = hi → s.readF p.lo = lo →
    (effectiveAddress base imm).toNat % 8 = 0 →
    Params.InRange s.params (effectiveAddress base imm).toNat 8 →
    Completes (exec (.sd dd rs imm) s) (StoreResult s (effectiveAddress base imm) 8 (hi ++ lo)))

/-- Where a load or store stops, in the order of its checks: operands, alignment, range
(48_loads_stores.md R245; 20_memory.md R35, R36). -/
def Obligations.LoadStoreFaults : Prop :=
  ∀ (s : State) (rd rs : RegNum) (imm : Imm16) (k : Fault),
    (rs ≠ 0 → (s.r.get rs).written = false →
      StopsUnwritten (.lb rd rs imm) s ∧ StopsUnwritten (.lbu rd rs imm) s ∧
      StopsUnwritten (.lh rd rs imm) s ∧ StopsUnwritten (.lhu rd rs imm) s ∧
      StopsUnwritten (.lw rd rs imm) s ∧ StopsUnwritten (.lf rd rs imm) s ∧
      StopsUnwritten (.sb rd rs imm) s ∧ StopsUnwritten (.sh rd rs imm) s ∧
      StopsUnwritten (.sw rd rs imm) s ∧ StopsUnwritten (.sf rd rs imm) s ∧
      ∀ p, s.pair rd = .ok p →
        StopsUnwritten (.ld rd rs imm) s ∧ StopsUnwritten (.sd rd rs imm) s) ∧
    (rd ≠ 0 → (s.r.get rd).written = false →
      StopsUnwritten (.sb rd rs imm) s ∧ StopsUnwritten (.sh rd rs imm) s ∧
      StopsUnwritten (.sw rd rs imm) s) ∧
    ((s.f.get rd).written = false → StopsUnwritten (.sf rd rs imm) s) ∧
    (∀ p, s.pair rd = .ok p → (s.f.get p.hi).written = false ∨ (s.f.get p.lo).written = false →
      StopsUnwritten (.sd rd rs imm) s) ∧
    (AccessFault s (s.readAddress rs imm) 1 k →
      exec (.lb rd rs imm) s = .fault k ∧ exec (.lbu rd rs imm) s = .fault k ∧ exec (.sb rd rs imm) s = .fault k) ∧
    (AccessFault s (s.readAddress rs imm) 2 k →
      exec (.lh rd rs imm) s = .fault k ∧ exec (.lhu rd rs imm) s = .fault k ∧ exec (.sh rd rs imm) s = .fault k) ∧
    (AccessFault s (s.readAddress rs imm) 4 k →
      exec (.lw rd rs imm) s = .fault k ∧ exec (.lf rd rs imm) s = .fault k ∧
      exec (.sw rd rs imm) s = .fault k ∧ exec (.sf rd rs imm) s = .fault k) ∧
    (AccessFault s (s.readAddress rs imm) 8 k → ∀ p, s.pair rd = .ok p →
      exec (.ld rd rs imm) s = .fault k ∧ exec (.sd rd rs imm) s = .fault k)

/-- A load sees the store before it: SW then LW, SF then LF and SD then LD of one address restore the
register (20_memory.md R41, 48_loads_stores.md R242). -/
def Obligations.LoadAfterStoreRestores : Prop :=
  ∀ (s t : State) (rd rs : RegNum) (imm : Imm16), s.mem.wf = true →
    (exec (.sw rd rs imm) s = .next t → ∃ u, exec (.lw rd rs imm) t = .next u ∧ u.readR rd = s.readR rd) ∧
    (exec (.sf rd rs imm) s = .next t → ∃ u, exec (.lf rd rs imm) t = .next u ∧ u.readF rd = s.readF rd) ∧
    (∀ p, s.pair rd = .ok p → exec (.sd rd rs imm) s = .next t →
      ∃ u, exec (.ld rd rs imm) t = .next u ∧ u.readF p.hi = s.readF p.hi ∧ u.readF p.lo = s.readF p.lo)

/-! ### Trap and return -/

/-- TRAP in environment mode, under any TrapService: the resume address is saved; answered Halt, the run
ends there; answered Resume, the service's writes are made and the run goes on after the TRAP with nothing
saved. The default service answers Halt to every trap; a service given as a script answers the next line of
it, and its last answer for ever after (60_exceptions.md R300, R301; 47_trap_rfe.md R221; that the answer is
that of a script or a free value, and that the model counts the answered traps, is log entry 7). -/
def Obligations.TrapInEnvironmentMode : Prop :=
  (∀ (s : State) (n : Dest26), s.saved = none → s.params.trapMode = .environment →
    (s.handedOver.serviceAnswer n = .halt →
      exec (.trap n) s = .next { s with
        pc := s.pc + 4, saved := some (s.pc + 4), status := .halted n, served := s.served + 1 }) ∧
    (∀ ws, s.handedOver.serviceAnswer n = .resume ws →
      ∃ t, exec (.trap n) s = .next t ∧ t.pc = s.pc + 4 ∧ t.saved = none ∧ t.status = s.status ∧
        t.served = s.served + 1 ∧ t.params = s.params ∧ t.modified = s.modified ∧ t.draws = s.draws ∧
        t.r = (s.applyWrites ws).r ∧ t.f = (s.applyWrites ws).f ∧ t.fpsr = (s.applyWrites ws).fpsr ∧
        t.special = (s.applyWrites ws).special ∧ t.mem = (s.applyWrites ws).mem)) ∧
  (∀ (s : State) (n : Dest26), s.params.trapService = Config.defaults.trapService →
    s.handedOver.serviceAnswer n = .halt) ∧
  (∀ (s : State) (n : Dest26) (first : List ServiceAnswer) (always : ServiceAnswer),
    s.params.trapService = .script first always →
    (∀ a, first[s.served]? = some a → s.handedOver.serviceAnswer n = a) ∧
    (first.length ≤ s.served → s.handedOver.serviceAnswer n = always))

/-- What TrapService may change: each write sets what it names and its mark, and nothing else; R0 and bytes
outside memory cannot be written (60_exceptions.md R301). -/
def Obligations.ServiceWritesStayInBounds : Prop :=
  ∀ (s : State), s.mem.wf = true →
    (∀ i v, WritesR i v s (s.applyWrite (.intReg i v)) ∧ (s.applyWrite (.intReg i v)).mem = s.mem ∧
      (s.applyWrite (.intReg i v)).f = s.f ∧ (s.applyWrite (.intReg i v)).fpsr = s.fpsr ∧
      (s.applyWrite (.intReg i v)).special = s.special) ∧
    (∀ i v, WritesF i v s (s.applyWrite (.fpReg i v)) ∧ (s.applyWrite (.fpReg i v)).mem = s.mem ∧
      (s.applyWrite (.fpReg i v)).r = s.r ∧ (s.applyWrite (.fpReg i v)).fpsr = s.fpsr ∧
      (s.applyWrite (.fpReg i v)).special = s.special) ∧
    (∀ b, s.applyWrite (.fpsr b) = { s with fpsr := ⟨b, true⟩ }) ∧
    (∀ v, s.applyWrite (.special v) = { s with special := ⟨v, true⟩ }) ∧
    (∀ a b x, (s.applyWrite (.byte a b)).mem.read x =
      if x = a.toNat ∧ Params.InRange s.params a.toNat 1 then b else s.mem.read x) ∧
    (∀ a b, (s.applyWrite (.byte a b)).r = s.r ∧ (s.applyWrite (.byte a b)).f = s.f ∧
      (s.applyWrite (.byte a b)).fpsr = s.fpsr ∧ (s.applyWrite (.byte a b)).special = s.special) ∧
    (∀ ws, (s.applyWrites ws).pc = s.pc ∧ (s.applyWrites ws).saved = s.saved ∧
      (s.applyWrites ws).status = s.status ∧ (s.applyWrites ws).params = s.params ∧
      (s.applyWrites ws).modified = s.modified ∧ (s.applyWrites ws).readR 0 = 0)

/-- TRAP in vectored mode: the resume address is saved and control goes to `vec(n)`; nothing else changes
(60_exceptions.md R300, 47_trap_rfe.md R221). -/
def Obligations.TrapInVectoredMode : Prop :=
  ∀ (s : State) (n : Dest26) (vec : VectorTable), s.saved = none → s.params.trapMode = .vectored vec →
    exec (.trap n) s = .next { s with pc := VectorTable.target vec n, saved := some (s.pc + 4) }

/-- RFE goes to the saved address and empties the slot, restoring nothing else; with nothing saved it
faults, and a TRAP with something saved faults (60_exceptions.md R300, R302; 47_trap_rfe.md R220). -/
def Obligations.ReturnFromTrapAndNesting : Prop :=
  (∀ (s : State) (a : Word), s.saved = some a →
    exec .rfe s = .next { s with pc := a, saved := none } ∧
    ∀ n, exec (.trap n) s = .fault .nestedTrap) ∧
  (∀ s : State, s.saved = none → exec .rfe s = .fault .rfeNoSavedState)

/-- A vectored trap whose handler returns at once with everything as it found it is a step over the TRAP:
RFE undoes what TRAP did (60_exceptions.md R300, R302). -/
def Obligations.ReturnUndoesVectoredTrap : Prop :=
  ∀ (s : State) (n : Dest26) (vec : VectorTable), s.saved = none → s.params.trapMode = .vectored vec →
    ∃ t, exec (.trap n) s = .next t ∧
      ∀ here, exec .rfe { t with pc := here } = .next { s with pc := s.pc + 4 }

/-- In environment mode every RFE the program executes faults, and traps never nest
(60_exceptions.md R302). -/
def Obligations.EnvironmentModeNeverReturnsByRfe : Prop :=
  ∀ s : State, s.Inv → s.status = .running → s.params.trapMode = .environment →
    exec .rfe s = .fault .rfeNoSavedState ∧ ∀ n, exec (.trap n) s ≠ .fault .nestedTrap

/-! ### The whole machine -/

/-- The invariant holds right after reset, under any launch parameters the spec allows (00_scope.md R4,
10_state.md R27, 70_reset_and_hazards.md R351). -/
def Obligations.ResetMeetsTheInvariant : Prop :=
  (∀ p : Params, p.Ok → (State.resetWith p).Inv) ∧ Sys2Proof.core.reset.Inv

/-- Every step keeps the invariant: memory stays canonical and inside the bytes that exist, `modified` too,
slot 0 stays R0, a resume address stays a multiple of 4, and in environment mode nothing is saved while the
program runs (20_memory.md R30, 10_state.md R11, 47_trap_rfe.md R220, 60_exceptions.md R302). -/
def Obligations.StepKeepsTheInvariant : Prop :=
  ∀ s t : State, s.Inv → Sys2Proof.Machine.step s = .next t → t.Inv

/-- What the host may place before the first step keeps the invariant, so it holds of every state that a
launch reaches, whatever parameters it chooses: TrapService, which may answer Halt or Resume in any order and
for ever, and TRAP_MODE among them (70_reset_and_hazards.md R352, R353; 60_exceptions.md R301). -/
def Obligations.EveryReachedStateMeetsTheInvariant : Prop :=
  ∀ (p : Params) (placed : List HostWrite), p.Ok →
    ∀ t, Reaches (State.launch p placed) t → t.Inv

/-- What an instruction may change: fpsr only by a comparison, memory and `modified` only by a store,
special only by MOVI2S, the saved slot only by TRAP and RFE, the run status and the count of answered traps
only by TRAP (which may let its service write registers and memory), pc leaves `A + 4` only in a transfer, and no
instruction changes a launch parameter (10_state.md R19, R20, R23, R24, R28; 20_memory.md R30). -/
def Obligations.EachStateHasItsWriters : Prop :=
  (∀ (i : Instr) (s t : State), exec i s = .next t → (∀ n, i ≠ .trap n) →
    (i.isComparison = false → t.fpsr = s.fpsr) ∧
    (i.isStore = false → SameMemory s t ∧ t.modified = s.modified) ∧
    (i.writesSpecial = false → t.special = s.special) ∧
    (i ≠ .rfe → t.saved = s.saved) ∧
    t.status = s.status ∧ t.served = s.served ∧
    (i.isTransfer = false → t.pc = s.pc + 4)) ∧
  (∀ (i : Instr) (s t : State), exec i s = .next t → t.params = s.params)

/-- Every instruction has a meaning in every state: none is refused (30_encoding.md R60). -/
def Obligations.NoInstructionIsRefused : Prop :=
  (∀ (i : Instr) (s : State) (r : Refusal), exec i s ≠ .refused r) ∧
  ∀ (s : State) (r : Refusal), step s ≠ .refused r

/-- A fault is raised only by what the column "raised by" lists for it; UnwrittenRead, which ends the run in the
state the step answers, only by an instruction that reads a register (60_exceptions.md R304, 10_state.md
R14). -/
def Obligations.FaultsAreRaisedAsListed : Prop :=
  (∀ (i : Instr) (s : State) (k : Fault), exec i s = .fault k →
    i.mayRaise k = true ∧
    (k = .nestedTrap → s.Inv → s.status = .running → ∃ vec, s.params.trapMode = .vectored vec)) ∧
  (∀ (i : Instr) (s : State), s.stopsUnwritten i = true → i.readsRegister = true) ∧
  (∀ (s : State) (k : Fault), step s = .fault k →
    s.fetch = .error k ∨
    (∃ w e, s.fetch = .ok w ∧ decode w = .error e ∧ k = .reservedInstruction) ∨
    ∃ w i, s.fetch = .ok w ∧ decode w = .ok i ∧ s.stopsUnwritten i = false ∧ exec i s = .fault k) ∧
  (∀ (s t : State) (k : FaultKind) (a : Word), s.status = .running → step s = .next t →
    t.status = .faulted k a →
    k = .unwrittenRead ∧ a = s.pc ∧
      ∃ w i, s.fetch = .ok w ∧ decode w = .ok i ∧ s.stopsUnwritten i = true)

end Statements
end

