-- ==== Sys2Proof/Laws/State.lean ====
section
/-! SUPPORT. What each state update leaves alone, one lemma per field, and what reads give after it. -/

namespace Sys2Proof.Machine

/-! ### writeR -/

@[simp] theorem State.writeR_f (s : State) (i : RegNum) (v : Word) : (s.writeR i v).f = s.f := by
  unfold State.writeR; split <;> rfl
@[simp] theorem State.writeR_fpsr (s : State) (i : RegNum) (v : Word) : (s.writeR i v).fpsr = s.fpsr := by
  unfold State.writeR; split <;> rfl
@[simp] theorem State.writeR_special (s : State) (i : RegNum) (v : Word) : (s.writeR i v).special = s.special := by
  unfold State.writeR; split <;> rfl
@[simp] theorem State.writeR_pc (s : State) (i : RegNum) (v : Word) : (s.writeR i v).pc = s.pc := by
  unfold State.writeR; split <;> rfl
@[simp] theorem State.writeR_saved (s : State) (i : RegNum) (v : Word) : (s.writeR i v).saved = s.saved := by
  unfold State.writeR; split <;> rfl
@[simp] theorem State.writeR_mem (s : State) (i : RegNum) (v : Word) : (s.writeR i v).mem = s.mem := by
  unfold State.writeR; split <;> rfl
@[simp] theorem State.writeR_modified (s : State) (i : RegNum) (v : Word) : (s.writeR i v).modified = s.modified := by
  unfold State.writeR; split <;> rfl
@[simp] theorem State.writeR_status (s : State) (i : RegNum) (v : Word) : (s.writeR i v).status = s.status := by
  unfold State.writeR; split <;> rfl
@[simp] theorem State.writeR_draws (s : State) (i : RegNum) (v : Word) : (s.writeR i v).draws = s.draws := by
  unfold State.writeR; split <;> rfl
@[simp] theorem State.writeR_served (s : State) (i : RegNum) (v : Word) : (s.writeR i v).served = s.served := by
  unfold State.writeR; split <;> rfl
@[simp] theorem State.writeR_params (s : State) (i : RegNum) (v : Word) : (s.writeR i v).params = s.params := by
  unfold State.writeR; split <;> rfl

/-! ### writeF -/

@[simp] theorem State.writeF_r (s : State) (i : RegNum) (v : Word) : (s.writeF i v).r = s.r := rfl
@[simp] theorem State.writeF_fpsr (s : State) (i : RegNum) (v : Word) : (s.writeF i v).fpsr = s.fpsr := rfl
@[simp] theorem State.writeF_special (s : State) (i : RegNum) (v : Word) : (s.writeF i v).special = s.special := rfl
@[simp] theorem State.writeF_pc (s : State) (i : RegNum) (v : Word) : (s.writeF i v).pc = s.pc := rfl
@[simp] theorem State.writeF_saved (s : State) (i : RegNum) (v : Word) : (s.writeF i v).saved = s.saved := rfl
@[simp] theorem State.writeF_mem (s : State) (i : RegNum) (v : Word) : (s.writeF i v).mem = s.mem := rfl
@[simp] theorem State.writeF_modified (s : State) (i : RegNum) (v : Word) : (s.writeF i v).modified = s.modified := rfl
@[simp] theorem State.writeF_status (s : State) (i : RegNum) (v : Word) : (s.writeF i v).status = s.status := rfl
@[simp] theorem State.writeF_draws (s : State) (i : RegNum) (v : Word) : (s.writeF i v).draws = s.draws := rfl
@[simp] theorem State.writeF_served (s : State) (i : RegNum) (v : Word) : (s.writeF i v).served = s.served := rfl
@[simp] theorem State.writeF_params (s : State) (i : RegNum) (v : Word) : (s.writeF i v).params = s.params := rfl

/-! ### writeFpsr -/

@[simp] theorem State.writeFpsr_r (s : State) (b : Bool) : (s.writeFpsr b).r = s.r := rfl
@[simp] theorem State.writeFpsr_f (s : State) (b : Bool) : (s.writeFpsr b).f = s.f := rfl
@[simp] theorem State.writeFpsr_special (s : State) (b : Bool) : (s.writeFpsr b).special = s.special := rfl
@[simp] theorem State.writeFpsr_pc (s : State) (b : Bool) : (s.writeFpsr b).pc = s.pc := rfl
@[simp] theorem State.writeFpsr_saved (s : State) (b : Bool) : (s.writeFpsr b).saved = s.saved := rfl
@[simp] theorem State.writeFpsr_mem (s : State) (b : Bool) : (s.writeFpsr b).mem = s.mem := rfl
@[simp] theorem State.writeFpsr_modified (s : State) (b : Bool) : (s.writeFpsr b).modified = s.modified := rfl
@[simp] theorem State.writeFpsr_status (s : State) (b : Bool) : (s.writeFpsr b).status = s.status := rfl
@[simp] theorem State.writeFpsr_draws (s : State) (b : Bool) : (s.writeFpsr b).draws = s.draws := rfl
@[simp] theorem State.writeFpsr_served (s : State) (b : Bool) : (s.writeFpsr b).served = s.served := rfl
@[simp] theorem State.writeFpsr_params (s : State) (b : Bool) : (s.writeFpsr b).params = s.params := rfl

/-! ### writeSpecial -/

@[simp] theorem State.writeSpecial_r (s : State) (v : Word) : (s.writeSpecial v).r = s.r := rfl
@[simp] theorem State.writeSpecial_f (s : State) (v : Word) : (s.writeSpecial v).f = s.f := rfl
@[simp] theorem State.writeSpecial_fpsr (s : State) (v : Word) : (s.writeSpecial v).fpsr = s.fpsr := rfl
@[simp] theorem State.writeSpecial_pc (s : State) (v : Word) : (s.writeSpecial v).pc = s.pc := rfl
@[simp] theorem State.writeSpecial_saved (s : State) (v : Word) : (s.writeSpecial v).saved = s.saved := rfl
@[simp] theorem State.writeSpecial_mem (s : State) (v : Word) : (s.writeSpecial v).mem = s.mem := rfl
@[simp] theorem State.writeSpecial_modified (s : State) (v : Word) : (s.writeSpecial v).modified = s.modified := rfl
@[simp] theorem State.writeSpecial_status (s : State) (v : Word) : (s.writeSpecial v).status = s.status := rfl
@[simp] theorem State.writeSpecial_draws (s : State) (v : Word) : (s.writeSpecial v).draws = s.draws := rfl
@[simp] theorem State.writeSpecial_served (s : State) (v : Word) : (s.writeSpecial v).served = s.served := rfl
@[simp] theorem State.writeSpecial_params (s : State) (v : Word) : (s.writeSpecial v).params = s.params := rfl

/-! ### writePair -/

@[simp] theorem State.writePair_r (s : State) (p : Pair) (v : DWord) : (s.writePair p v).r = s.r := rfl
@[simp] theorem State.writePair_fpsr (s : State) (p : Pair) (v : DWord) : (s.writePair p v).fpsr = s.fpsr := rfl
@[simp] theorem State.writePair_special (s : State) (p : Pair) (v : DWord) : (s.writePair p v).special = s.special := rfl
@[simp] theorem State.writePair_pc (s : State) (p : Pair) (v : DWord) : (s.writePair p v).pc = s.pc := rfl
@[simp] theorem State.writePair_saved (s : State) (p : Pair) (v : DWord) : (s.writePair p v).saved = s.saved := rfl
@[simp] theorem State.writePair_mem (s : State) (p : Pair) (v : DWord) : (s.writePair p v).mem = s.mem := rfl
@[simp] theorem State.writePair_modified (s : State) (p : Pair) (v : DWord) : (s.writePair p v).modified = s.modified := rfl
@[simp] theorem State.writePair_status (s : State) (p : Pair) (v : DWord) : (s.writePair p v).status = s.status := rfl
@[simp] theorem State.writePair_draws (s : State) (p : Pair) (v : DWord) : (s.writePair p v).draws = s.draws := rfl
@[simp] theorem State.writePair_served (s : State) (p : Pair) (v : DWord) : (s.writePair p v).served = s.served := rfl
@[simp] theorem State.writePair_params (s : State) (p : Pair) (v : DWord) : (s.writePair p v).params = s.params := rfl

/-! ### advance -/

@[simp] theorem State.advance_r (s : State) : (s.advance).r = s.r := rfl
@[simp] theorem State.advance_f (s : State) : (s.advance).f = s.f := rfl
@[simp] theorem State.advance_fpsr (s : State) : (s.advance).fpsr = s.fpsr := rfl
@[simp] theorem State.advance_special (s : State) : (s.advance).special = s.special := rfl
@[simp] theorem State.advance_saved (s : State) : (s.advance).saved = s.saved := rfl
@[simp] theorem State.advance_mem (s : State) : (s.advance).mem = s.mem := rfl
@[simp] theorem State.advance_modified (s : State) : (s.advance).modified = s.modified := rfl
@[simp] theorem State.advance_status (s : State) : (s.advance).status = s.status := rfl
@[simp] theorem State.advance_draws (s : State) : (s.advance).draws = s.draws := rfl
@[simp] theorem State.advance_served (s : State) : (s.advance).served = s.served := rfl
@[simp] theorem State.advance_params (s : State) : (s.advance).params = s.params := rfl

/-! ### jumpTo -/

@[simp] theorem State.jumpTo_r (s : State) (a : Word) : (s.jumpTo a).r = s.r := rfl
@[simp] theorem State.jumpTo_f (s : State) (a : Word) : (s.jumpTo a).f = s.f := rfl
@[simp] theorem State.jumpTo_fpsr (s : State) (a : Word) : (s.jumpTo a).fpsr = s.fpsr := rfl
@[simp] theorem State.jumpTo_special (s : State) (a : Word) : (s.jumpTo a).special = s.special := rfl
@[simp] theorem State.jumpTo_saved (s : State) (a : Word) : (s.jumpTo a).saved = s.saved := rfl
@[simp] theorem State.jumpTo_mem (s : State) (a : Word) : (s.jumpTo a).mem = s.mem := rfl
@[simp] theorem State.jumpTo_modified (s : State) (a : Word) : (s.jumpTo a).modified = s.modified := rfl
@[simp] theorem State.jumpTo_status (s : State) (a : Word) : (s.jumpTo a).status = s.status := rfl
@[simp] theorem State.jumpTo_draws (s : State) (a : Word) : (s.jumpTo a).draws = s.draws := rfl
@[simp] theorem State.jumpTo_served (s : State) (a : Word) : (s.jumpTo a).served = s.served := rfl
@[simp] theorem State.jumpTo_params (s : State) (a : Word) : (s.jumpTo a).params = s.params := rfl

/-! ### drawn -/

@[simp] theorem State.drawn_r (s : State) : (s.drawn).r = s.r := rfl
@[simp] theorem State.drawn_f (s : State) : (s.drawn).f = s.f := rfl
@[simp] theorem State.drawn_fpsr (s : State) : (s.drawn).fpsr = s.fpsr := rfl
@[simp] theorem State.drawn_special (s : State) : (s.drawn).special = s.special := rfl
@[simp] theorem State.drawn_pc (s : State) : (s.drawn).pc = s.pc := rfl
@[simp] theorem State.drawn_saved (s : State) : (s.drawn).saved = s.saved := rfl
@[simp] theorem State.drawn_mem (s : State) : (s.drawn).mem = s.mem := rfl
@[simp] theorem State.drawn_modified (s : State) : (s.drawn).modified = s.modified := rfl
@[simp] theorem State.drawn_status (s : State) : (s.drawn).status = s.status := rfl
@[simp] theorem State.drawn_served (s : State) : (s.drawn).served = s.served := rfl
@[simp] theorem State.drawn_params (s : State) : (s.drawn).params = s.params := rfl

/-! ### afterFault -/

@[simp] theorem State.afterFault_r (s : State) (k : FaultKind) : (s.afterFault k).r = s.r := rfl
@[simp] theorem State.afterFault_f (s : State) (k : FaultKind) : (s.afterFault k).f = s.f := rfl
@[simp] theorem State.afterFault_fpsr (s : State) (k : FaultKind) : (s.afterFault k).fpsr = s.fpsr := rfl
@[simp] theorem State.afterFault_special (s : State) (k : FaultKind) : (s.afterFault k).special = s.special := rfl
@[simp] theorem State.afterFault_pc (s : State) (k : FaultKind) : (s.afterFault k).pc = s.pc := rfl
@[simp] theorem State.afterFault_saved (s : State) (k : FaultKind) : (s.afterFault k).saved = s.saved := rfl
@[simp] theorem State.afterFault_mem (s : State) (k : FaultKind) : (s.afterFault k).mem = s.mem := rfl
@[simp] theorem State.afterFault_modified (s : State) (k : FaultKind) : (s.afterFault k).modified = s.modified := rfl
@[simp] theorem State.afterFault_draws (s : State) (k : FaultKind) : (s.afterFault k).draws = s.draws := rfl
@[simp] theorem State.afterFault_served (s : State) (k : FaultKind) : (s.afterFault k).served = s.served := rfl
@[simp] theorem State.afterFault_params (s : State) (k : FaultKind) : (s.afterFault k).params = s.params := rfl

/-! ### handedOver -/

@[simp] theorem State.handedOver_r (s : State) : (s.handedOver).r = s.r := rfl
@[simp] theorem State.handedOver_f (s : State) : (s.handedOver).f = s.f := rfl
@[simp] theorem State.handedOver_fpsr (s : State) : (s.handedOver).fpsr = s.fpsr := rfl
@[simp] theorem State.handedOver_special (s : State) : (s.handedOver).special = s.special := rfl
@[simp] theorem State.handedOver_mem (s : State) : (s.handedOver).mem = s.mem := rfl
@[simp] theorem State.handedOver_modified (s : State) : (s.handedOver).modified = s.modified := rfl
@[simp] theorem State.handedOver_status (s : State) : (s.handedOver).status = s.status := rfl
@[simp] theorem State.handedOver_draws (s : State) : (s.handedOver).draws = s.draws := rfl
@[simp] theorem State.handedOver_served (s : State) : (s.handedOver).served = s.served := rfl
@[simp] theorem State.handedOver_params (s : State) : (s.handedOver).params = s.params := rfl

/-! ### countServed -/

@[simp] theorem State.countServed_r (s : State) : (s.countServed).r = s.r := rfl
@[simp] theorem State.countServed_f (s : State) : (s.countServed).f = s.f := rfl
@[simp] theorem State.countServed_fpsr (s : State) : (s.countServed).fpsr = s.fpsr := rfl
@[simp] theorem State.countServed_special (s : State) : (s.countServed).special = s.special := rfl
@[simp] theorem State.countServed_pc (s : State) : (s.countServed).pc = s.pc := rfl
@[simp] theorem State.countServed_saved (s : State) : (s.countServed).saved = s.saved := rfl
@[simp] theorem State.countServed_mem (s : State) : (s.countServed).mem = s.mem := rfl
@[simp] theorem State.countServed_modified (s : State) : (s.countServed).modified = s.modified := rfl
@[simp] theorem State.countServed_status (s : State) : (s.countServed).status = s.status := rfl
@[simp] theorem State.countServed_draws (s : State) : (s.countServed).draws = s.draws := rfl
@[simp] theorem State.countServed_params (s : State) : (s.countServed).params = s.params := rfl

@[simp] theorem State.advance_pc (s : State) : s.advance.pc = s.pc + 4 := rfl
@[simp] theorem State.jumpTo_pc (s : State) (a : Word) : (s.jumpTo a).pc = a := rfl
@[simp] theorem State.handedOver_pc (s : State) : s.handedOver.pc = s.pc + 4 := rfl
@[simp] theorem State.handedOver_saved (s : State) : s.handedOver.saved = some (s.pc + 4) := rfl
@[simp] theorem State.countServed_served (s : State) : s.countServed.served = s.served + 1 := rfl
@[simp] theorem State.drawn_draws (s : State) : s.drawn.draws = s.draws + 1 := rfl
@[simp] theorem State.afterFault_status (s : State) (k : FaultKind) : (s.afterFault k).status = .faulted k s.pc := rfl
@[simp] theorem State.writeFpsr_fpsr (s : State) (b : Bool) : (s.writeFpsr b).fpsr = ⟨b, true⟩ := rfl
@[simp] theorem State.writeSpecial_special (s : State) (v : Word) : (s.writeSpecial v).special = ⟨v, true⟩ := rfl

/-! ### Reads after updates -/

/-- `R0` reads 0 in every state. -/
@[simp] theorem State.readR_zero (s : State) : s.readR 0 = 0 := rfl

/-- `readR` looks at the integer registers alone. -/
theorem State.readR_congr {s t : State} (hr : t.r = s.r) (i : RegNum) :
    t.readR i = s.readR i := by simp only [State.readR, hr]

/-- `readF` looks at the F registers alone. -/
theorem State.readF_congr {s t : State} (hf : t.f = s.f) (i : RegNum) :
    t.readF i = s.readF i := by simp only [State.readF, hf]

/-- Reading an integer register after a write: R0 still reads 0, the written one reads the new value, the
others are unchanged. -/
theorem State.readR_writeR (s : State) (i j : RegNum) (v : Word) :
    (s.writeR i v).readR j = if j = 0 then 0 else if j = i then v else s.readR j := by
  by_cases hj : j = 0
  · simp [hj]
  by_cases hi : i = 0
  · subst hi; simp [State.writeR, hj]
  simp only [State.readR, State.writeR, hi, hj, if_false]
  by_cases h : j = i
  · subst h; simp [Vector.get_eq_getElem]
  · have hv : i.val ≠ j.val := fun e => h (Fin.ext e.symm)
    simp [Vector.get_eq_getElem, Vector.getElem_set_ne _ _ hv, h]

/-- Reading an F register after a write. -/
theorem State.readF_writeF (s : State) (i j : RegNum) (v : Word) :
    (s.writeF i v).readF j = if j = i then v else s.readF j := by
  by_cases h : j = i
  · subst h; simp [State.readF, State.writeF, Vector.get_eq_getElem]
  · have hv : i.val ≠ j.val := fun e => h (Fin.ext e.symm)
    simp [State.readF, State.writeF, Vector.get_eq_getElem, Vector.getElem_set_ne _ _ hv, h]

/-- Reading an F register after a write to a pair. -/
theorem State.readF_writePair (s : State) (p : Pair) (j : RegNum) (v : DWord) :
    (s.writePair p v).readF j =
      if j = p.lo then v.extractLsb' 0 32 else if j = p.hi then v.extractLsb' 32 32 else s.readF j := by
  simp only [State.writePair, State.readF_writeF]

@[simp] theorem State.readR_writeF (s : State) (i j : RegNum) (v : Word) : (s.writeF i v).readR j = s.readR j := rfl
@[simp] theorem State.readR_writePair (s : State) (p : Pair) (j : RegNum) (v : DWord) : (s.writePair p v).readR j = s.readR j := rfl
@[simp] theorem State.readR_writeFpsr (s : State) (b : Bool) (j : RegNum) : (s.writeFpsr b).readR j = s.readR j := rfl
@[simp] theorem State.readR_writeSpecial (s : State) (v : Word) (j : RegNum) : (s.writeSpecial v).readR j = s.readR j := rfl
@[simp] theorem State.readR_advance (s : State) (j : RegNum) : (s.advance).readR j = s.readR j := rfl
@[simp] theorem State.readR_jumpTo (s : State) (a : Word) (j : RegNum) : (s.jumpTo a).readR j = s.readR j := rfl
@[simp] theorem State.readR_drawn (s : State) (j : RegNum) : (s.drawn).readR j = s.readR j := rfl
@[simp] theorem State.readF_writeFpsr (s : State) (b : Bool) (j : RegNum) : (s.writeFpsr b).readF j = s.readF j := rfl
@[simp] theorem State.readF_writeSpecial (s : State) (v : Word) (j : RegNum) : (s.writeSpecial v).readF j = s.readF j := rfl
@[simp] theorem State.readF_advance (s : State) (j : RegNum) : (s.advance).readF j = s.readF j := rfl
@[simp] theorem State.readF_jumpTo (s : State) (a : Word) (j : RegNum) : (s.jumpTo a).readF j = s.readF j := rfl
@[simp] theorem State.readF_drawn (s : State) (j : RegNum) : (s.drawn).readF j = s.readF j := rfl
@[simp] theorem State.readF_writeR (s : State) (i j : RegNum) (v : Word) : (s.writeR i v).readF j = s.readF j :=
  State.readF_congr (by simp) j

/-- Distinct halves: the pair a field names has two different registers. -/
theorem DregField.pair_hi_ne_lo {d : DregField} {k : RegNum} {p : Pair} (h : DregField.pair d k = .ok p) :
    p.hi ≠ p.lo := by
  have hk : ∀ k : RegNum, k ≠ k + 1 ∧ k + k ≠ k + k + 1 := by decide
  cases d <;> simp only [DregField.pair] at h <;> split at h <;> cases h
  · exact (hk k).1
  · exact (hk k).2

/-- A pair written and read back. -/
theorem State.readPair_writePair (s : State) (p : Pair) (v : DWord) (h : p.hi ≠ p.lo) :
    (s.writePair p v).readPair p = v := by
  simp only [State.readPair, State.readF_writePair, h, if_true, if_false]
  ext i hi
  simp only [BitVec.getElem_append, BitVec.getElem_extractLsb']
  split <;> simp_all [BitVec.getLsbD_eq_getElem]

end Sys2Proof.Machine
end

