-- ==== Sys2Proof/Laws/Memory.lean ====
section
/-! SUPPORT. The laws of memory: reads after writes, the canonical form, and the set of modified bytes. -/

namespace Sys2Proof.Machine

/-! ### One byte -/

/-- Reading the byte just written. -/
@[simp] theorem Memory.read_write_same (m : Memory) (a : Nat) (b : Byte) (h : m.wf = true) :
    (m.write a b).read a = b := by
  induction m with
  | nil => by_cases hb : b = Config.launchByte <;> simp [Memory.write, Memory.read, hb]
  | cons c m ih =>
    obtain ⟨a', b'⟩ := c
    simp only [Memory.wf, Bool.and_eq_true, bne_iff_ne, List.all_eq_true, decide_eq_true_eq] at h
    have absent : ∀ m : Memory, (∀ c ∈ m, a ≠ c.1) → m.read a = Config.launchByte := by
      intro m hm
      induction m with
      | nil => rfl
      | cons c m ih' =>
        have h1 : c.1 ≠ a := fun e => hm c (by simp) e.symm
        simp only [Memory.read, h1, if_false]
        exact ih' fun c' hc => hm c' (by simp [hc])
    simp only [Memory.write]
    split
    · rename_i hlt
      split
      · rename_i hb
        rw [hb]
        refine absent _ fun c hc => ?_
        rcases List.mem_cons.mp hc with rfl | hc
        · exact Nat.ne_of_lt hlt
        · exact Nat.ne_of_lt (Nat.lt_trans hlt (h.1.2 c hc))
      · simp [Memory.read]
    · split
      · rename_i heq
        subst heq
        split
        · rename_i hb
          rw [hb]
          exact absent _ fun c hc => Nat.ne_of_lt (h.1.2 c hc)
        · simp [Memory.read]
      · rename_i hne
        have : a' ≠ a := fun e => hne e.symm
        simp only [Memory.read, this, if_false]
        exact ih h.2

/-- A write leaves every other byte alone. -/
theorem Memory.read_write_other (m : Memory) {a x : Nat} (b : Byte) (h : x ≠ a) :
    (m.write a b).read x = m.read x := by
  induction m with
  | nil => by_cases hb : b = Config.launchByte <;> simp [Memory.write, Memory.read, hb, h.symm]
  | cons c m ih =>
    obtain ⟨a', b'⟩ := c
    have key : ∀ (b₀ : Byte) (m₀ : Memory), Memory.read ((a, b₀) :: m₀) x = m₀.read x :=
      fun b₀ m₀ => if_neg (Ne.symm h)
    simp only [Memory.write]
    split
    · split
      · rfl
      · exact key _ _
    · split
      · rename_i heq
        subst heq
        split
        · exact (key _ _).symm
        · exact (key _ _).trans (key _ _).symm
      · simp only [Memory.read, ih]

/-- The addresses a write can list: the old ones and the one written. -/
theorem Memory.mem_write {m : Memory} {a : Nat} {b : Byte} {c : Host.Cell} (h : c ∈ m.write a b) :
    c = (a, b) ∨ c ∈ m := by
  induction m with
  | nil =>
    simp only [Memory.write] at h
    split at h <;> simp_all
  | cons d m ih =>
    simp only [Memory.write] at h
    repeat' split at h
    all_goals simp only [List.mem_cons] at h ⊢
    all_goals tauto

/-- A write keeps the canonical form. -/
theorem Memory.wf_write (m : Memory) (a : Nat) (b : Byte) (h : m.wf = true) : (m.write a b).wf = true := by
  induction m with
  | nil => by_cases hb : b = Config.launchByte <;> simp [Memory.write, Memory.wf, hb]
  | cons c m ih =>
    obtain ⟨a', b'⟩ := c
    have h0 := h
    simp only [Memory.wf, Bool.and_eq_true, bne_iff_ne, List.all_eq_true, decide_eq_true_eq] at h
    simp only [Memory.write]
    split
    · rename_i hlt
      split
      · exact h0
      · rename_i hb
        simp only [Memory.wf, Bool.and_eq_true, bne_iff_ne, List.all_eq_true, decide_eq_true_eq,
          List.mem_cons, forall_eq_or_imp]
        exact ⟨⟨hb, hlt, fun c hc => Nat.lt_trans hlt (h.1.2 c hc)⟩, ⟨h.1.1, h.1.2⟩, h.2⟩
    · split
      · rename_i heq
        subst heq
        split
        · exact h.2
        · rename_i hb
          simp only [Memory.wf, Bool.and_eq_true, bne_iff_ne, List.all_eq_true, decide_eq_true_eq]
          exact ⟨⟨hb, h.1.2⟩, h.2⟩
      · rename_i hlt hne
        simp only [Memory.wf, Bool.and_eq_true, bne_iff_ne, List.all_eq_true, decide_eq_true_eq]
        refine ⟨⟨h.1.1, fun c hc => ?_⟩, ih h.2⟩
        rcases Memory.mem_write hc with rfl | hc
        · exact Nat.lt_of_le_of_ne (Nat.le_of_not_lt hlt) (fun e => hne e.symm)
        · exact h.1.2 c hc

/-! ### Several bytes -/

/-- Storing keeps the canonical form. -/
theorem Memory.wf_writeBE (m : Memory) (a n v : Nat) (h : m.wf = true) : (m.writeBE a n v).wf = true := by
  induction n generalizing a with
  | zero => exact h
  | succ n ih => exact Memory.wf_write _ _ _ (ih (a + 1))

/-- The addresses a store can list. -/
theorem Memory.mem_writeBE {m : Memory} {a n v : Nat} {c : Host.Cell} (h : c ∈ m.writeBE a n v) :
    (a ≤ c.1 ∧ c.1 < a + n) ∨ c ∈ m := by
  induction n generalizing a with
  | zero => exact .inr h
  | succ n ih =>
    rcases Memory.mem_write h with rfl | h
    · left; exact ⟨Nat.le_refl _, by simp⟩
    · rcases ih h with h | h
      · left; omega
      · exact .inr h

/-- A store leaves every byte outside it alone. -/
theorem Memory.read_writeBE_outside (m : Memory) {a n x : Nat} (v : Nat) (h : x < a ∨ a + n ≤ x) :
    (m.writeBE a n v).read x = m.read x := by
  induction n generalizing a with
  | zero => rfl
  | succ n ih =>
    rw [Memory.writeBE, Memory.read_write_other _ _ (by omega), ih (by omega)]

/-- The byte a store leaves at offset `i`: the most significant byte lies at the lowest address. -/
theorem Memory.read_writeBE_inside (m : Memory) {a n i : Nat} (v : Nat) (hm : m.wf = true) (h : i < n) :
    (m.writeBE a n v).read (a + i) = BitVec.ofNat 8 (v / 256 ^ (n - 1 - i)) := by
  induction n generalizing a i with
  | zero => omega
  | succ n ih =>
    by_cases hi : i = 0
    · subst hi
      simp only [Memory.writeBE, Nat.add_zero]
      rw [Memory.read_write_same _ _ _ (Memory.wf_writeBE _ _ _ _ hm)]
      simp
    · rw [Memory.writeBE, Memory.read_write_other _ _ (by omega)]
      obtain ⟨j, rfl⟩ : ∃ j, i = j + 1 := ⟨i - 1, by omega⟩
      rw [show a + (j + 1) = a + 1 + j by omega, ih (by omega)]
      congr 3
      omega

/-- Reading depends on the bytes read alone. -/
theorem Memory.readBE_congr {m m' : Memory} {a n : Nat} (h : ∀ x, a ≤ x → x < a + n → m'.read x = m.read x) :
    m'.readBE a n = m.readBE a n := by
  induction n generalizing a with
  | zero => rfl
  | succ n ih =>
    simp only [Memory.readBE]
    rw [h a (by omega) (by omega), ih fun x h1 h2 => h x (by omega) (by omega)]

/-- Reading `n` bytes gives a number of `n` bytes. -/
theorem Memory.readBE_lt (m : Memory) (a n : Nat) : m.readBE a n < 256 ^ n := by
  induction n generalizing a with
  | zero => simp [Memory.readBE]
  | succ n ih =>
    have h1 := ih (a + 1)
    have h2 := (m.read a).isLt
    simp only [Memory.readBE, pow_succ]
    calc (m.read a).toNat * 256 ^ n + m.readBE (a + 1) n < (m.read a).toNat * 256 ^ n + 256 ^ n := by omega
      _ = ((m.read a).toNat + 1) * 256 ^ n := by ring
      _ ≤ 256 * 256 ^ n := Nat.mul_le_mul_right _ (by omega)
      _ = 256 ^ n * 256 := Nat.mul_comm _ _

/-- What was stored is read back, cut to its bytes. -/
theorem Memory.readBE_writeBE (m : Memory) (a n v : Nat) (hm : m.wf = true) :
    (m.writeBE a n v).readBE a n = v % 256 ^ n := by
  induction n generalizing a with
  | zero => simp [Memory.readBE, Nat.mod_one]
  | succ n ih =>
    simp only [Memory.writeBE, Memory.readBE]
    rw [Memory.read_write_same _ _ _ (Memory.wf_writeBE _ _ _ _ hm),
      Memory.readBE_congr (m := m.writeBE (a + 1) n v)
        fun x h1 _ => Memory.read_write_other _ _ (by omega), ih]
    have e : v % 256 ^ (n + 1) = v % 256 ^ n + 256 ^ n * (v / 256 ^ n % 256) := by
      rw [pow_succ]; exact Nat.mod_mul
    rw [BitVec.toNat_ofNat, e, Nat.add_comm, Nat.mul_comm]

/-! ### The set of modified bytes -/

/-- Adding an address adds exactly it. -/
theorem mem_addAddr {l : List Nat} {a x : Nat} : x ∈ addAddr l a ↔ x = a ∨ x ∈ l := by
  induction l with
  | nil => simp [addAddr]
  | cons b l ih =>
    simp only [addAddr]
    repeat' split
    all_goals simp_all
    tauto

/-- Adding a run of addresses adds exactly them. -/
theorem mem_addAddrs {l : List Nat} {a n x : Nat} : x ∈ addAddrs l a n ↔ (a ≤ x ∧ x < a + n) ∨ x ∈ l := by
  induction n generalizing a with
  | zero => simp only [addAddrs]; constructor <;> intro h <;> [exact .inr h; (rcases h with h | h; omega; exact h)]
  | succ n ih =>
    simp only [addAddrs, mem_addAddr, ih, ← or_assoc]
    refine or_congr_left ?_
    omega

/-- Adding an address keeps the list rising. -/
theorem addrsRising_addAddr (l : List Nat) (a : Nat) (h : addrsRising l = true) :
    addrsRising (addAddr l a) = true := by
  induction l with
  | nil => simp [addAddr, addrsRising]
  | cons b l ih =>
    have h0 := h
    simp only [addrsRising, Bool.and_eq_true, List.all_eq_true, decide_eq_true_eq] at h
    simp only [addAddr]
    split
    · rename_i hlt
      simp only [addrsRising, Bool.and_eq_true, List.all_eq_true, decide_eq_true_eq, List.mem_cons,
        forall_eq_or_imp]
      exact ⟨⟨hlt, fun c hc => Nat.lt_trans hlt (h.1 c hc)⟩, h⟩
    · split
      · exact h0
      · simp only [addrsRising, Bool.and_eq_true, List.all_eq_true, decide_eq_true_eq]
        refine ⟨fun c hc => ?_, ih h.2⟩
        rcases mem_addAddr.mp hc with rfl | hc
        · omega
        · exact h.1 c hc

/-- Adding a run of addresses keeps the list rising. -/
theorem addrsRising_addAddrs (l : List Nat) (a n : Nat) (h : addrsRising l = true) :
    addrsRising (addAddrs l a n) = true := by
  induction n generalizing a with
  | zero => exact h
  | succ n ih => exact addrsRising_addAddr _ _ (ih (a + 1))

end Sys2Proof.Machine
end

