-- ==== Sys2Proof/Laws/Ops.lean ====
section
/-! SUPPORT. What each shared operation can do, said once: the laws of operand reads, of the memory
operations, of writes from outside, of the trap, and of the shapes. -/

namespace Sys2Proof.Machine

/-! ### Operands -/

@[simp] theorem withOperand_ok {α : Type} (a : α) (k : α → StepOutcome) : withOperand (.ok a) k = k a := rfl

@[simp] theorem withOperand_error {α : Type} (e : Fault) (k : α → StepOutcome) :
    withOperand (.error e) k = .fault e := rfl

/-- Going on after an operand means that it could be read. -/
theorem withOperand_next {α : Type} {x : Except Fault α} {k : α → StepOutcome} {t : State} :
    withOperand x k = .next t ↔ ∃ a, x = .ok a ∧ k a = .next t := by
  cases x <;> simp

/-- A fault after an operand is the operand's own or a later one. -/
theorem withOperand_fault {α : Type} {x : Except Fault α} {k : α → StepOutcome} {e : Fault} :
    withOperand x k = .fault e ↔ x = .error e ∨ ∃ a, x = .ok a ∧ k a = .fault e := by
  cases x <;> simp

/-- The pairs of `even_f_index`. -/
theorem DregField.pair_even_ok {k : RegNum} {p : Pair} :
    DregField.pair .evenFIndex k = .ok p ↔ k.val % 2 = 0 ∧ p = ⟨k, k + 1⟩ := by
  simp only [DregField.pair]
  split <;> simp_all [eq_comm]

/-- The pairs of `d_index`. -/
theorem DregField.pair_index_ok {k : RegNum} {p : Pair} :
    DregField.pair .dIndex k = .ok p ↔ k.val < 16 ∧ p = ⟨k + k, k + k + 1⟩ := by
  simp only [DregField.pair]
  split <;> simp_all [eq_comm]

/-- A field that names no double register raises the one fault of 10_state.md R18. -/
theorem DregField.pair_error {d : DregField} {k : RegNum} {e : Fault} (h : DregField.pair d k = .error e) :
    e = .reservedDoubleRegister := by
  cases d <;> simp only [DregField.pair] at h <;> split at h <;> cases h <;> rfl

/-- A well-formed field names a double register. -/
theorem DregField.pair_of_names {d : DregField} {k : RegNum} (h : d.names k = true) :
    ∃ p, DregField.pair d k = .ok p := by
  cases d <;> simp_all [DregField.names, DregField.pair]

/-! ### Memory -/

/-- When a data access is accepted (20_memory.md R35, R36). -/
theorem State.checkAccess_ok {s : State} {a : Word} {n : Nat} :
    s.checkAccess a n = .ok () ↔ a.toNat % n = 0 ∧ Params.InRange s.params a.toNat n := by
  unfold State.checkAccess
  by_cases h1 : a.toNat % n = 0
  · rw [if_neg (not_not.mpr h1)]
    by_cases h2 : Params.InRange s.params a.toNat n
    · rw [if_pos h2]; exact ⟨fun _ => ⟨h1, h2⟩, fun _ => rfl⟩
    · rw [if_neg h2]; exact ⟨nofun, fun h => absurd h.2 h2⟩
  · rw [if_pos h1]; exact ⟨nofun, fun h => absurd h.1 h1⟩

/-- What a load reads. -/
theorem State.memRead_ok {s : State} {a : Word} {n : Nat} {v : BitVec (8 * n)} :
    s.memRead a n = .ok v ↔
      (a.toNat % n = 0 ∧ Params.InRange s.params a.toNat n) ∧
        BitVec.ofNat (8 * n) (s.mem.readBE a.toNat n) = v := by
  rw [← State.checkAccess_ok]
  unfold State.memRead
  cases s.checkAccess a n <;> simp

/-- What a store leaves. -/
theorem State.memWrite_ok {s t : State} {a : Word} {n : Nat} {v : BitVec (8 * n)} :
    s.memWrite a n v = .ok t ↔
      (a.toNat % n = 0 ∧ Params.InRange s.params a.toNat n) ∧
        { s with
          mem := s.mem.writeBE a.toNat n v.toNat
          modified := if s.params.allowSmc then s.modified else addAddrs s.modified a.toNat n } = t := by
  rw [← State.checkAccess_ok]
  unfold State.memWrite
  cases s.checkAccess a n <;> simp

/-- The byte at offset `i` of a stored value. -/
theorem State.memWrite_byte {s t : State} {a : Word} {n i : Nat} {v : BitVec (8 * n)} (hw : s.mem.wf = true)
    (h : s.memWrite a n v = .ok t) (hi : i < n) :
    t.mem.read (a.toNat + i) = v.extractLsb' (8 * (n - 1 - i)) 8 := by
  obtain ⟨-, rfl⟩ := State.memWrite_ok.mp h
  rw [Memory.read_writeBE_inside _ _ hw hi]
  apply BitVec.eq_of_toNat_eq
  simp [BitVec.extractLsb'_toNat, Nat.shiftRight_eq_div_pow, Nat.pow_mul]

/-- What a store read back gives: nothing is lost (20_memory.md R41). -/
theorem State.memRead_memWrite {s t : State} {a : Word} {n : Nat} {v : BitVec (8 * n)} (hw : s.mem.wf = true)
    (h : s.memWrite a n v = .ok t) : t.memRead a n = .ok v := by
  obtain ⟨hc, rfl⟩ := State.memWrite_ok.mp h
  refine State.memRead_ok.mpr ⟨hc, ?_⟩
  show BitVec.ofNat (8 * n) ((s.mem.writeBE a.toNat n v.toNat).readBE a.toNat n) = v
  rw [Memory.readBE_writeBE _ _ _ _ hw]
  apply BitVec.eq_of_toNat_eq
  have h1 : v.toNat < 256 ^ n := by have := v.isLt; rwa [Nat.pow_mul] at this
  rw [BitVec.toNat_ofNat, Nat.mod_eq_of_lt h1, Nat.mod_eq_of_lt v.isLt]

/-! ### What an update keeps of the machine -/

/-- The parts of the state that the invariant speaks of are as before. -/
def KeepsMachine (s t : State) : Prop :=
  t.mem = s.mem ∧ t.modified = s.modified ∧ t.saved = s.saved ∧ t.status = s.status ∧
    t.served = s.served ∧ t.params = s.params ∧ t.r.get 0 = s.r.get 0

theorem KeepsMachine.refl (s : State) : KeepsMachine s s := ⟨rfl, rfl, rfl, rfl, rfl, rfl, rfl⟩

theorem KeepsMachine.trans {s t u : State} (h : KeepsMachine s t) (k : KeepsMachine t u) : KeepsMachine s u := by
  obtain ⟨h1, h2, h3, h4, h5, h6, h7⟩ := h
  obtain ⟨k1, k2, k3, k4, k5, k6, k7⟩ := k
  exact ⟨k1.trans h1, k2.trans h2, k3.trans h3, k4.trans h4, k5.trans h5, k6.trans h6, k7.trans h7⟩

/-- No write reaches slot 0, which stands for R0 (10_state.md R12). -/
@[simp] theorem State.writeR_slot0 (s : State) (i : RegNum) (v : Word) : (s.writeR i v).r.get 0 = s.r.get 0 := by
  by_cases hi : i = 0
  · simp [State.writeR, hi]
  · have : i.val ≠ 0 := fun e => hi (Fin.ext e)
    simp [State.writeR, hi, Vector.get_eq_getElem, Vector.getElem_set_ne _ _ this]

theorem keeps_writeR (s : State) (i : RegNum) (v : Word) : KeepsMachine s (s.writeR i v) := by
  simp [KeepsMachine]

theorem keeps_writeF (s : State) (i : RegNum) (v : Word) : KeepsMachine s (s.writeF i v) := .refl s
theorem keeps_writePair (s : State) (p : Pair) (v : DWord) : KeepsMachine s (s.writePair p v) := .refl s
theorem keeps_writeFpsr (s : State) (b : Bool) : KeepsMachine s (s.writeFpsr b) := .refl s
theorem keeps_writeSpecial (s : State) (v : Word) : KeepsMachine s (s.writeSpecial v) := .refl s
theorem keeps_advance (s : State) : KeepsMachine s s.advance := .refl s
theorem keeps_jumpTo (s : State) (a : Word) : KeepsMachine s (s.jumpTo a) := .refl s
theorem keeps_drawn (s : State) : KeepsMachine s s.drawn := .refl s

theorem keeps_settleSingle (s : State) (x : FpResult) : KeepsMachine s (s.settleSingle x).2 := by
  cases x <;> exact .refl s
theorem keeps_settleDouble (s : State) (x : FpResult) : KeepsMachine s (s.settleDouble x).2 := by
  cases x <;> exact .refl s
theorem keeps_settleInt (s : State) (x : Option Word) : KeepsMachine s (s.settleInt x).2 := by
  cases x <;> exact .refl s

theorem keeps_putSingle (s : State) (fd : RegNum) (x : FpResult) : KeepsMachine s (s.putSingle fd x) :=
  keeps_settleSingle s x
theorem keeps_putDouble (s : State) (p : Pair) (x : FpResult) : KeepsMachine s (s.putDouble p x) :=
  keeps_settleDouble s x
theorem keeps_putInt (s : State) (rd : RegNum) (x : Option Word) : KeepsMachine s (s.putInt rd x) :=
  (keeps_settleInt s x).trans (keeps_writeR _ rd _)

/-! ### The written marks -/

/-- The mark a write sets (10_state.md R14). -/
theorem State.writeR_written (s : State) (i j : RegNum) (v : Word) :
    ((s.writeR i v).r.get j).written = if j = i ∧ j ≠ 0 then true else (s.r.get j).written := by
  by_cases hi : i = 0
  · subst hi
    have : ¬ (j = 0 ∧ j ≠ 0) := fun h => h.2 h.1
    simp [State.writeR]
  · by_cases h : j = i
    · subst h; simp [State.writeR, hi, Vector.get_eq_getElem]
    · have hv : i.val ≠ j.val := fun e => h (Fin.ext e.symm)
      simp [State.writeR, hi, h, Vector.get_eq_getElem, Vector.getElem_set_ne _ _ hv]

/-- The mark a write to an F register sets (10_state.md R14). -/
theorem State.writeF_written (s : State) (i j : RegNum) (v : Word) :
    ((s.writeF i v).f.get j).written = if j = i then true else (s.f.get j).written := by
  by_cases h : j = i
  · subst h; simp [State.writeF, Vector.get_eq_getElem]
  · have hv : i.val ≠ j.val := fun e => h (Fin.ext e.symm)
    simp [State.writeF, h, Vector.get_eq_getElem, Vector.getElem_set_ne _ _ hv]

/-- An integer write is what a claim calls one. -/
theorem State.writesR_writeR (s : State) (i : RegNum) (v : Word) : WritesR i v s (s.writeR i v) :=
  ⟨fun j => State.readR_writeR s i j v, fun j => State.writeR_written s i j v⟩

/-- A write to an F register is what a claim calls one. -/
theorem State.writesF_writeF (s : State) (i : RegNum) (v : Word) : WritesF i v s (s.writeF i v) :=
  ⟨fun j => State.readF_writeF s i j v, fun j => State.writeF_written s i j v⟩

/-- A write to a double register is what a claim calls one. -/
theorem State.writesPair_writePair (s : State) (p : Pair) (v : DWord) (h : p.hi ≠ p.lo) :
    WritesPair p v s (s.writePair p v) := by
  refine ⟨fun j => ?_, fun j => ?_⟩
  · rw [State.readF_writePair]
    by_cases h1 : j = p.hi <;> by_cases h2 : j = p.lo <;> simp_all
  · simp only [State.writePair, State.writeF_written]
    by_cases h1 : j = p.hi <;> by_cases h2 : j = p.lo <;> simp_all

/-! ### Writes from outside -/

/-- What one write from outside can change: registers, fpsr, special, and one byte that exists. -/
theorem State.applyWrite_frame (s : State) (w : HostWrite) :
    (s.applyWrite w).pc = s.pc ∧ (s.applyWrite w).saved = s.saved ∧ (s.applyWrite w).status = s.status ∧
    (s.applyWrite w).params = s.params ∧ (s.applyWrite w).modified = s.modified ∧
    (s.applyWrite w).served = s.served ∧ (s.applyWrite w).draws = s.draws ∧
    (s.applyWrite w).r.get 0 = s.r.get 0 := by
  cases w <;> simp only [State.applyWrite]
  case intReg => simp
  case byte => split <;> simp
  all_goals simp

/-- What several writes from outside can change. -/
theorem State.applyWrites_frame (s : State) (ws : List HostWrite) :
    (s.applyWrites ws).pc = s.pc ∧ (s.applyWrites ws).saved = s.saved ∧ (s.applyWrites ws).status = s.status ∧
    (s.applyWrites ws).params = s.params ∧ (s.applyWrites ws).modified = s.modified ∧
    (s.applyWrites ws).served = s.served ∧ (s.applyWrites ws).draws = s.draws ∧
    (s.applyWrites ws).r.get 0 = s.r.get 0 := by
  induction ws generalizing s with
  | nil => simp [State.applyWrites]
  | cons w ws ih =>
    obtain ⟨h1, h2, h3, h4, h5, h6, h7, h8⟩ := ih (s.applyWrite w)
    obtain ⟨k1, k2, k3, k4, k5, k6, k7, k8⟩ := State.applyWrite_frame s w
    simp only [State.applyWrites]
    exact ⟨h1.trans k1, h2.trans k2, h3.trans k3, h4.trans k4, h5.trans k5, h6.trans k6, h7.trans k7,
      h8.trans k8⟩

/-- Writes from outside keep memory canonical and inside the bytes that exist. -/
theorem State.applyWrites_memory (s : State) (ws : List HostWrite) (hw : s.mem.wf = true)
    (hr : ∀ c ∈ s.mem, Params.InRange s.params c.1 1) :
    (s.applyWrites ws).mem.wf = true ∧ ∀ c ∈ (s.applyWrites ws).mem, Params.InRange s.params c.1 1 := by
  induction ws generalizing s with
  | nil => exact ⟨hw, hr⟩
  | cons w ws ih =>
    have hp := (State.applyWrite_frame s w).2.2.2.1
    have hm : (s.applyWrite w).mem.wf = true ∧
        ∀ c ∈ (s.applyWrite w).mem, Params.InRange s.params c.1 1 := by
      cases w with
      | byte a b =>
        simp only [State.applyWrite]
        split
        · rename_i hin
          refine ⟨Memory.wf_write _ _ _ hw, fun c hc => ?_⟩
          rcases Memory.mem_write hc with rfl | hc
          · exact hin
          · exact hr c hc
        · exact ⟨hw, hr⟩
      | intReg i v =>
        simp only [State.applyWrite, State.writeR_mem]
        exact ⟨hw, hr⟩
      | fpReg i v => exact ⟨hw, hr⟩
      | fpsr b => exact ⟨hw, hr⟩
      | special v => exact ⟨hw, hr⟩
    have := ih (s.applyWrite w) hm.1 (by rw [hp]; exact hm.2)
    rw [hp] at this
    exact this

/-! ### The trap -/

/-- Everything RFE can do (60_exceptions.md R302). -/
theorem State.returnFromTrap_next {s t : State} :
    s.returnFromTrap = .next t ↔ ∃ a, s.saved = some a ∧ { s with pc := a, saved := none } = t := by
  unfold State.returnFromTrap
  cases s.saved <;> simp

/-- The trap finds the slot full (60_exceptions.md R300 (1)). -/
theorem State.takeTrap_nested {s : State} {n : Dest26} {a : Word} (h : s.saved = some a) :
    s.takeTrap n = .fault .nestedTrap := by
  unfold State.takeTrap; rw [h]

/-- The trap goes to its vector (60_exceptions.md R300 (3)). -/
theorem State.takeTrap_vectored {s : State} {n : Dest26} {vec : VectorTable} (h : s.saved = none)
    (hm : s.params.trapMode = .vectored vec) :
    s.takeTrap n = .next { s with pc := VectorTable.target vec n, saved := some (s.pc + 4) } := by
  unfold State.takeTrap; rw [h]; simp only; rw [hm]; rfl

/-- The trap is answered Halt (60_exceptions.md R301). -/
theorem State.takeTrap_halt {s : State} {n : Dest26} (h : s.saved = none)
    (hm : s.params.trapMode = .environment) (ha : s.handedOver.serviceAnswer n = .halt) :
    s.takeTrap n = .next { s with
      pc := s.pc + 4, saved := some (s.pc + 4), served := s.served + 1, status := .halted n } := by
  unfold State.takeTrap; rw [h]; simp only; rw [hm]
  simp only [State.serveTrap, ha]
  rfl

/-- The trap is answered Resume: the writes are made, and the run goes on after the TRAP with nothing saved
(60_exceptions.md R301). -/
theorem State.takeTrap_resume {s : State} {n : Dest26} {ws : List HostWrite} (h : s.saved = none)
    (hm : s.params.trapMode = .environment) (ha : s.handedOver.serviceAnswer n = .resume ws) :
    s.takeTrap n =
      .next { s.handedOver.countServed.applyWrites ws with pc := s.pc + 4, saved := none } := by
  unfold State.takeTrap; rw [h]; simp only; rw [hm]
  simp only [State.serveTrap, ha]
  rw [State.returnFromTrap_next]
  exact ⟨s.pc + 4, (State.applyWrites_frame _ ws).2.1, rfl⟩

/-- What a scripted service answers: the listed answers in order, then always the same
(60_exceptions.md R301). -/
theorem State.serviceAnswer_script {s : State} {first : List ServiceAnswer} {always : ServiceAnswer}
    (h : s.params.trapService = .script first always) (n : Dest26) :
    s.serviceAnswer n = (first[s.served]?).getD always := by
  unfold State.serviceAnswer; rw [h]

/-! ### The shapes -/

theorem regReg_next {op : Word → Word → Word} {rd rs rc : RegNum} {s t : State} :
    regReg op rd rs rc s = .next t ↔ (s.writeR rd (op (s.readR rs) (s.readR rc))).advance = t := by
  simp only [regReg, Host.Outcome.next.injEq]

theorem regRegDivide_next {op : Word → Word → Word} {rd rs rc : RegNum} {s t : State} :
    regRegDivide op rd rs rc s = .next t ↔
      s.readR rc ≠ 0 ∧ (s.writeR rd (op (s.readR rs) (s.readR rc))).advance = t := by
  simp only [regRegDivide]
  split <;> simp_all

theorem regImm_next {op : Word → Word} {rd rs : RegNum} {s t : State} :
    regImm op rd rs s = .next t ↔ (s.writeR rd (op (s.readR rs))).advance = t := by
  simp only [regImm, Host.Outcome.next.injEq]

theorem singleSingle_next {op : Word → Word → FpResult} {fd fs fc : RegNum} {s t : State} :
    singleSingle op fd fs fc s = .next t ↔ (s.putSingle fd (op (s.readF fs) (s.readF fc))).advance = t := by
  simp only [singleSingle, Host.Outcome.next.injEq]

theorem doubleDouble_next {op : DWord → DWord → FpResult} {dd ds dc : RegNum} {s t : State} :
    doubleDouble op dd ds dc s = .next t ↔
      ∃ pd, s.pair dd = .ok pd ∧ ∃ ps, s.pair ds = .ok ps ∧ ∃ pc, s.pair dc = .ok pc ∧
        (s.putDouble pd (op (s.readPair ps) (s.readPair pc))).advance = t := by
  simp only [doubleDouble, withOperand_next, Host.Outcome.next.injEq]

theorem compareSingle_next {holds : FpOrder → Bool} {fs fc : RegNum} {s t : State} :
    compareSingle holds fs fc s = .next t ↔
      (s.writeFpsr (holds (fpCmp32 (s.readF fs) (s.readF fc)))).advance = t := by
  simp only [compareSingle, Host.Outcome.next.injEq]

theorem compareDouble_next {holds : FpOrder → Bool} {ds dc : RegNum} {s t : State} :
    compareDouble holds ds dc s = .next t ↔
      ∃ ps, s.pair ds = .ok ps ∧ ∃ pc, s.pair dc = .ok pc ∧
        (s.writeFpsr (holds (fpCmp64 (s.readPair ps) (s.readPair pc)))).advance = t := by
  simp only [compareDouble, withOperand_next, Host.Outcome.next.injEq]

theorem loadInt_next {n : Nat} {ext : BitVec (8 * n) → Word} {rd rs : RegNum} {imm : Imm16} {s t : State} :
    loadInt n ext rd rs imm s = .next t ↔
      ∃ v, s.memRead (s.readAddress rs imm) n = .ok v ∧ (s.writeR rd (ext v)).advance = t := by
  simp only [loadInt, withOperand_next, Host.Outcome.next.injEq]

theorem storeInt_next {n : Nat} {cut : Word → BitVec (8 * n)} {rd rs : RegNum} {imm : Imm16} {s t : State} :
    storeInt n cut rd rs imm s = .next t ↔
      ∃ u, s.memWrite (s.readAddress rs imm) n (cut (s.readR rd)) = .ok u ∧ u.advance = t := by
  simp only [storeInt, withOperand_next, Host.Outcome.next.injEq]

/-- A branch always goes on, at its target or after itself. -/
theorem branch_next {taken : Bool} {imm : Imm16} {s t : State} :
    branch taken imm s = .next t ↔ s.jumpTo (if taken then s.branchTarget imm else s.nextPc) = t := by
  cases taken <;> simp [branch, State.jumpTo, State.advance]

/-! ### The shapes keep the machine -/

theorem regReg_keeps {op : Word → Word → Word} {rd rs rc : RegNum} {s t : State}
    (h : regReg op rd rs rc s = .next t) : KeepsMachine s t := by
  obtain rfl := regReg_next.mp h
  exact keeps_writeR s rd _

theorem regRegDivide_keeps {op : Word → Word → Word} {rd rs rc : RegNum} {s t : State}
    (h : regRegDivide op rd rs rc s = .next t) : KeepsMachine s t := by
  obtain ⟨-, rfl⟩ := regRegDivide_next.mp h
  exact keeps_writeR s rd _

theorem regImm_keeps {op : Word → Word} {rd rs : RegNum} {s t : State} (h : regImm op rd rs s = .next t) :
    KeepsMachine s t := by
  obtain rfl := regImm_next.mp h
  exact keeps_writeR s rd _

theorem singleSingle_keeps {op : Word → Word → FpResult} {fd fs fc : RegNum} {s t : State}
    (h : singleSingle op fd fs fc s = .next t) : KeepsMachine s t := by
  obtain rfl := singleSingle_next.mp h
  exact keeps_putSingle s fd _

theorem doubleDouble_keeps {op : DWord → DWord → FpResult} {dd ds dc : RegNum} {s t : State}
    (h : doubleDouble op dd ds dc s = .next t) : KeepsMachine s t := by
  obtain ⟨pd, -, ps, -, pc, -, rfl⟩ := doubleDouble_next.mp h
  exact keeps_putDouble s pd _

theorem compareSingle_keeps {holds : FpOrder → Bool} {fs fc : RegNum} {s t : State}
    (h : compareSingle holds fs fc s = .next t) : KeepsMachine s t := by
  obtain rfl := compareSingle_next.mp h
  exact .refl s

theorem compareDouble_keeps {holds : FpOrder → Bool} {ds dc : RegNum} {s t : State}
    (h : compareDouble holds ds dc s = .next t) : KeepsMachine s t := by
  obtain ⟨ps, -, pc, -, rfl⟩ := compareDouble_next.mp h
  exact .refl s

theorem loadInt_keeps {n : Nat} {ext : BitVec (8 * n) → Word} {rd rs : RegNum} {imm : Imm16} {s t : State}
    (h : loadInt n ext rd rs imm s = .next t) : KeepsMachine s t := by
  obtain ⟨v, -, rfl⟩ := loadInt_next.mp h
  exact keeps_writeR s rd _

theorem branch_keeps {taken : Bool} {imm : Imm16} {s t : State} (h : branch taken imm s = .next t) :
    KeepsMachine s t := by
  obtain rfl := branch_next.mp h
  exact .refl s

/-! ### The check of the operand reads (10_state.md R14) -/

/-- When an instruction reads an unwritten register. -/
theorem State.readsUnwritten_iff {i : Instr} {s : State} :
    s.readsUnwritten i = true ↔ s.namesDoubles i = true ∧ ∃ x ∈ i.sources, s.hasWritten x = false := by
  simp [State.readsUnwritten]

/-- When the check fails. -/
theorem State.stopsUnwritten_iff {i : Instr} {s : State} :
    s.stopsUnwritten i = true ↔ s.params.unwritten = .faults ∧ s.readsUnwritten i = true := by
  simp [State.stopsUnwritten]

/-- Where it fails, the answer is the final state. -/
theorem execChecked_stops {i : Instr} {s : State} (h : s.stopsUnwritten i = true) :
    execChecked i s = .next (s.afterFault .unwrittenRead) := by simp [execChecked, h]

/-- Where it does not, the instruction runs. -/
theorem execChecked_runs {i : Instr} {s : State} (h : s.stopsUnwritten i = false) :
    execChecked i s = exec i s := by simp [execChecked, h]

/-- Everything a checked instruction can do. -/
theorem execChecked_cases (i : Instr) (s : State) :
    (s.stopsUnwritten i = true ∧ execChecked i s = .next (s.afterFault .unwrittenRead)) ∨
    (s.stopsUnwritten i = false ∧ execChecked i s = exec i s) := by
  cases h : s.stopsUnwritten i
  · exact .inr ⟨rfl, execChecked_runs h⟩
  · exact .inl ⟨rfl, execChecked_stops h⟩

end Sys2Proof.Machine
end

