-- ==== Sys2Proof/Laws/Agree.lean ====
section
/-! SUPPORT. States that differ at most in the values of registers nothing has written: what each operation
makes of them (10_state.md R14). -/

namespace Sys2Proof.Machine

/-- A written register reads the same. -/
theorem State.Agrees.readR {s t : State} (h : s.Agrees t) {i : RegNum} (hw : s.hasWritten (.int i) = true) :
    t.readR i = s.readR i := by
  unfold State.readR; split; rfl
  simp [State.hasWritten, *] at hw
  exact (h.r i).2 hw

/-- A written F register reads the same. -/
theorem State.Agrees.readF {s t : State} (h : s.Agrees t) {i : RegNum} (hw : (s.f.get i).written = true) :
    t.readF i = s.readF i := (h.f i).2 hw

/-- A field names the same pair. -/
theorem State.Agrees.pair {s t : State} (h : s.Agrees t) (k) : t.pair k = s.pair k :=
    by simp [State.pair, h.params]

/-- A state agrees with itself. -/
theorem State.Agrees.refl (s : State) : s.Agrees s :=
    ⟨fun _ => ⟨rfl, fun _ => rfl⟩, fun _ => ⟨rfl, fun _ => rfl⟩, ⟨rfl, fun _ => rfl⟩, ⟨rfl, fun _ => rfl⟩,
    rfl,rfl,rfl,rfl,rfl,rfl,rfl,rfl⟩

/-- Each update keeps the agreement. -/
theorem State.Agrees.writeR {s t : State} (h : s.Agrees t) (i : RegNum) (v : Word) :
    (s.writeR i v).Agrees (t.writeR i v) := by
  constructor
  · intro j
    unfold State.writeR; split
    · exact h.r j
    · by_cases e : j = i
      · subst e; simp [Marked.Agrees, Vector.get_eq_getElem]
      · have hv : i.val ≠ j.val := fun e' => e (Fin.ext e'.symm)
        simpa [Vector.get_eq_getElem, Vector.getElem_set_ne _ _ hv] using h.r j
  · intro j; simpa using h.f j
  · simpa using h.fpsr
  · simpa using h.special
  all_goals simp [h.pc, h.saved, h.mem, h.modified, h.status, h.draws, h.served, h.params]

theorem State.Agrees.writeF {s t : State} (h : s.Agrees t) (i : RegNum) (v : Word) :
    (s.writeF i v).Agrees (t.writeF i v) := by
  constructor
  · exact h.r
  · intro j
    by_cases e : j = i
    · subst e; simp [State.writeF, Marked.Agrees, Vector.get_eq_getElem]
    · have hv : i.val ≠ j.val := fun e' => e (Fin.ext e'.symm)
      simpa [State.writeF, Vector.get_eq_getElem, Vector.getElem_set_ne _ _ hv] using h.f j
  · exact h.fpsr
  · exact h.special
  all_goals simp [h.pc, h.saved, h.mem, h.modified, h.status, h.draws, h.served, h.params]

theorem State.Agrees.writePair {s t : State} (h : s.Agrees t) (p v) :
    (s.writePair p v).Agrees (t.writePair p v) := (h.writeF _ _).writeF _ _

theorem State.Agrees.writeFpsr {s t : State} (h : s.Agrees t) (v) : (s.writeFpsr v).Agrees (t.writeFpsr v) :=
    ⟨h.r, h.f, ⟨rfl, fun _ => rfl⟩, h.special, h.pc, h.saved, h.mem, h.modified, h.status, h.draws, h.served,
    h.params⟩

theorem State.Agrees.writeSpecial {s t : State} (h : s.Agrees t) (v) :
    (s.writeSpecial v).Agrees (t.writeSpecial v) :=
    ⟨h.r, h.f, h.fpsr, ⟨rfl, fun _ => rfl⟩, h.pc, h.saved, h.mem, h.modified, h.status, h.draws, h.served,
    h.params⟩

theorem State.Agrees.jumpTo {s t : State} (h : s.Agrees t) (v) : (s.jumpTo v).Agrees (t.jumpTo v) :=
    ⟨h.r, h.f, h.fpsr, h.special, rfl, h.saved, h.mem, h.modified, h.status, h.draws, h.served, h.params⟩

theorem State.Agrees.advance {s t : State} (h : s.Agrees t) : s.advance.Agrees t.advance :=
    ⟨h.r, h.f, h.fpsr, h.special, by simp [h.pc], h.saved, h.mem, h.modified, h.status, h.draws, h.served,
    h.params⟩

theorem State.Agrees.drawn {s t : State} (h : s.Agrees t) : s.drawn.Agrees t.drawn :=
    ⟨h.r, h.f, h.fpsr, h.special, h.pc, h.saved, h.mem, h.modified, h.status, by simp [h.draws], h.served,
    h.params⟩

theorem State.Agrees.putSingle {s t : State} (h : s.Agrees t) (d x) :
    (s.putSingle d x).Agrees (t.putSingle d x) := by
  cases x
  · exact h.writeF _ _
  · simp only [State.putSingle, State.settleSingle, h.draws]; exact h.drawn.writeF _ _

theorem State.Agrees.putDouble {s t : State} (h : s.Agrees t) (d x) :
    (s.putDouble d x).Agrees (t.putDouble d x) := by
  cases x
  · exact h.writePair _ _
  · simp only [State.putDouble, State.settleDouble, h.draws]; exact h.drawn.writePair _ _

theorem State.Agrees.putInt {s t : State} (h : s.Agrees t) (d x) : (s.putInt d x).Agrees (t.putInt d x) := by
  cases x
  · simp only [State.putInt, State.settleInt, h.draws]; exact h.drawn.writeR _ _
  · exact h.writeR _ _

/-- Next states that agree. -/
theorem OutcomesAgree.next {s t : State} (h : s.Agrees t) : OutcomesAgree (.next s) (.next t) :=
    .inl ⟨_, _, rfl, rfl, h⟩

/-- The same fault. -/
theorem OutcomesAgree.fault (k) : OutcomesAgree (.fault k) (.fault k) := .inr ⟨_, rfl, rfl⟩

/-- Outcomes that agree after the same pair. -/
theorem OutcomesAgree.pair {s t : State} (h : s.Agrees t) (k) {f g : Pair → StepOutcome}
    (hf : ∀ p, s.pair k = .ok p → OutcomesAgree (f p) (g p)) :
    OutcomesAgree (withOperand (s.pair k) f) (withOperand (t.pair k) g) := by
  rw [h.pair]; cases e : s.pair k with
  | ok p => exact hf p e
  | error x => exact OutcomesAgree.fault x

/-- Outcomes that agree after the same load. -/
theorem OutcomesAgree.memRead {s t : State} (h : s.Agrees t) (a n) {f g : _ → StepOutcome}
    (hf : ∀ p, OutcomesAgree (f p) (g p)) :
    OutcomesAgree (withOperand (s.memRead a n) f) (withOperand (t.memRead a n) g) := by
  have : t.memRead a n = s.memRead a n := by simp [State.memRead, State.checkAccess, h.params, h.mem]
  rw [this]; cases e : s.memRead a n with
  | ok p => exact hf p
  | error x => exact OutcomesAgree.fault x

/-- The same store. -/
theorem OutcomesAgree.memWrite {s t : State} (h : s.Agrees t) (a n v) :
    OutcomesAgree (withOperand (s.memWrite a n v) fun u =>
    .next u.advance) (withOperand (t.memWrite a n v) fun u => .next u.advance) := by
  have e : t.checkAccess a n = s.checkAccess a n := by simp [State.checkAccess, h.params]
  unfold State.memWrite
  rw [e]
  cases s.checkAccess a n with
  | error x => exact OutcomesAgree.fault x
  | ok _ => exact OutcomesAgree.next ⟨h.r, h.f, h.fpsr, h.special, by simp [h.pc], h.saved, by simp [h.mem],
      by simp [h.modified, h.params], h.status, h.draws, h.served, h.params⟩

theorem State.Agrees.applyWrites {s t : State} (h : s.Agrees t) (ws) :
    (s.applyWrites ws).Agrees (t.applyWrites ws) := by
  induction ws generalizing s t with
  | nil => exact h
  | cons w ws ih =>
    apply ih
    cases w with
    | intReg i v => exact h.writeR i v
    | fpReg i v => exact h.writeF i v
    | fpsr b => exact h.writeFpsr b
    | special b => exact h.writeSpecial b
    | byte a b =>
      have hp := h.params
      obtain ⟨⟩ := t
      simp only at hp; subst hp
      simp only [State.applyWrite]; split
      · exact ⟨h.r, h.f, h.fpsr, h.special, h.pc, h.saved, congrArg (fun m => Memory.write m _ _) h.mem,
          h.modified, h.status, h.draws, h.served, rfl⟩
      · exact h

/-- A trap, under a service that is given. -/
theorem OutcomesAgree.trap {s t : State} (h : s.Agrees t) (n) (hs : s.params.trapService ≠ .any) :
    OutcomesAgree (s.takeTrap n) (t.takeTrap n) := by
  cases e : s.saved with
  | some a =>
    rw [State.takeTrap_nested e, State.takeTrap_nested (h.saved.trans e)]; exact OutcomesAgree.fault _
  | none =>
    have e' := h.saved.trans e
    cases m : s.params.trapMode with
    | vectored v =>
      rw [State.takeTrap_vectored e m, State.takeTrap_vectored e' (by rw [h.params, m])]
      exact OutcomesAgree.next ⟨h.r, h.f, h.fpsr, h.special, rfl, by simp [h.pc], h.mem, h.modified,
          h.status, h.draws, h.served, h.params⟩
    | environment =>
      have m' : t.params.trapMode = .environment := by rw [h.params, m]
      have sv : t.handedOver.serviceAnswer n = s.handedOver.serviceAnswer n := by
        cases x : s.params.trapService with
        | any => exact absurd x hs
        | script f a =>
          rw [State.serviceAnswer_script (s := s.handedOver) x, State.serviceAnswer_script (s :=
              t.handedOver) (by rw [← x, ← h.params]; rfl)]; simp [h.served]
      cases x : s.handedOver.serviceAnswer n with
      | halt =>
        rw [State.takeTrap_halt e m x, State.takeTrap_halt e' m' (sv.trans x)]
        exact OutcomesAgree.next ⟨h.r, h.f, h.fpsr, h.special, by simp [h.pc], by simp [h.pc], h.mem,
            h.modified, rfl, h.draws, by simp [h.served], h.params⟩
      | resume ws =>
        rw [State.takeTrap_resume e m x, State.takeTrap_resume e' m' (sv.trans x)]
        have k : s.handedOver.countServed.Agrees t.handedOver.countServed :=
            ⟨h.r, h.f, h.fpsr, h.special, by simp [h.pc], by simp [h.pc], h.mem, h.modified, h.status,
            h.draws, by simp [h.served], h.params⟩
        have k := k.applyWrites ws
        exact OutcomesAgree.next ⟨k.r, k.f, k.fpsr, k.special, by simp [h.pc], rfl, k.mem, k.modified,
            k.status, k.draws, k.served, k.params⟩

end Sys2Proof.Machine
end

