-- ==== Sys2Proof/Laws/Arith.lean ====
section
/-! SUPPORT. Each integer result, computed on integers and cut to 32 bits, is the operation on bit vectors. -/

namespace Sys2Proof.Machine

/-- Cutting a natural number. -/
theorem trunc32_natCast (n : Nat) : trunc32 (n : Int) = BitVec.ofNat 32 n := by
  apply BitVec.eq_of_toNat_eq
  simp [trunc32]

/-- The five low bits, as a number (40_int_register.md R118). -/
theorem shiftAmount_eq (c : Word) : shiftAmount c = c.toNat % 32 := by
  simp [shiftAmount, BitVec.extractLsb'_toNat]

/-- The five low bits of an immediate, as a number (46_int_immediate.md R209). -/
theorem immShiftAmount_eq (imm : Imm16) : immShiftAmount imm = imm.toNat % 32 := by
  simp [immShiftAmount, BitVec.extractLsb'_toNat]

theorem shiftLeft_eq (a : Word) (n : Nat) : shiftLeft a n = a <<< n := by
  have h : shiftLeft a n = trunc32 ((a.toNat * 2 ^ n : Nat) : Int) := by simp [shiftLeft]
  rw [h, trunc32_natCast]
  apply BitVec.eq_of_toNat_eq
  simp [BitVec.toNat_shiftLeft, Nat.shiftLeft_eq]

theorem shiftRightLogical_eq (a : Word) (n : Nat) : shiftRightLogical a n = a >>> n := by
  rw [shiftRightLogical, trunc32_natCast]
  apply BitVec.eq_of_toNat_eq
  simp only [BitVec.toNat_ofNat, BitVec.toNat_ushiftRight, Nat.shiftRight_eq_div_pow]
  exact Nat.mod_eq_of_lt (Nat.lt_of_le_of_lt (Nat.div_le_self _ _) a.isLt)

theorem shiftRightArith_eq (a : Word) (n : Nat) : shiftRightArith a n = a.sshiftRight n := by
  simp only [shiftRightArith, trunc32, BitVec.sshiftRight, Int.shiftRight_eq_div_pow]
  rw [Int.fdiv_eq_ediv_of_nonneg _ (by positivity)]
  norm_cast

theorem addWord_eq (a b : Word) : addWord a b = a + b := by
  have h : addWord a b = trunc32 ((a.toNat + b.toNat : Nat) : Int) := by simp [addWord]
  rw [h, trunc32_natCast]
  apply BitVec.eq_of_toNat_eq
  simp

theorem subWord_eq (a b : Word) : subWord a b = a - b := by
  apply BitVec.eq_of_toInt_eq
  have h : subWord a b = trunc32 (a.toNat - b.toNat) := rfl
  rw [h, trunc32, BitVec.toInt_ofInt, BitVec.toInt_sub]
  simp [BitVec.toInt_eq_toNat_bmod]

theorem mulSigned_eq (a b : Word) : mulSigned a b = a * b := by
  apply BitVec.eq_of_toInt_eq
  simp [mulSigned, trunc32, BitVec.toInt_mul]

theorem mulUnsigned_eq (a b : Word) : mulUnsigned a b = a * b := by
  have h : mulUnsigned a b = trunc32 ((a.toNat * b.toNat : Nat) : Int) := by simp [mulUnsigned]
  rw [h, trunc32_natCast]
  apply BitVec.eq_of_toNat_eq
  simp [BitVec.toNat_mul]

theorem divSigned_eq (a b : Word) : divSigned a b = a.sdiv b := by
  apply BitVec.eq_of_toInt_eq
  simp [divSigned, trunc32, BitVec.toInt_sdiv]

theorem divUnsigned_eq (a b : Word) : divUnsigned a b = a / b := by
  rw [divUnsigned, trunc32_natCast]
  apply BitVec.eq_of_toNat_eq
  simp only [BitVec.toNat_ofNat, BitVec.toNat_udiv]
  exact Nat.mod_eq_of_lt (Nat.lt_of_le_of_lt (Nat.div_le_self _ _) a.isLt)

/-- The sign-extended immediate denotes the same integer. -/
theorem sextImm_toInt (imm : Imm16) : (sextImm imm).toInt = imm.toInt := by
  unfold sextImm
  rw [BitVec.toInt_signExtend_of_le (by decide)]

theorem highImm_eq (imm : Imm16) : highImm imm = imm.zeroExtend 32 <<< 16 := by
  apply BitVec.eq_of_getLsbD_eq
  intro i hi
  have h : (highImm imm).getLsbD i = (imm ++ (0 : BitVec 16)).getLsbD i := rfl
  rw [h]
  simp only [BitVec.getLsbD_append, BitVec.getLsbD_shiftLeft, BitVec.truncate_eq_setWidth,
    BitVec.getLsbD_setWidth]
  by_cases h16 : i < 16
  · simp [h16]
  · simp [h16, hi]
    omega

end Sys2Proof.Machine
end

