-- ==== Sys2Proof/Laws/Fp.lean ====
section
/-! SUPPORT. Rounding to nearest even is what it says: the one rounding of the floating-point numerics gives
the correctly rounded result. -/

namespace Sys2Proof.Machine

/-! ### Rounding to a whole number -/

/-- The rounded quotient is within half of the exact one, and even when it is half away. -/
theorem roundHalfEven_bounds (n D : Nat) (hD : 0 < D) :
    2 * (roundHalfEven n D * D) ≤ 2 * n + D ∧ 2 * n ≤ 2 * (roundHalfEven n D * D) + D ∧
      (2 * (roundHalfEven n D * D) = 2 * n + D ∨ 2 * n = 2 * (roundHalfEven n D * D) + D →
        roundHalfEven n D % 2 = 0) := by
  have h1 : D * (n / D) + n % D = n := Nat.div_add_mod n D
  have h2 : n % D < D := Nat.mod_lt n hD
  have h3 : n / D * D = D * (n / D) := Nat.mul_comm _ _
  have h4 : (n / D + 1) * D = n / D * D + D := Nat.succ_mul _ _
  simp only [roundHalfEven]
  generalize n / D = q at *
  generalize n % D = r at *
  generalize hx : D * q = x at *
  generalize hy : q * D = y at *
  split
  · rw [hy]; omega
  · split
    · rw [h4]; omega
    · split
      · rw [hy]; omega
      · rw [h4]; omega

/-- No whole multiple of `D` is nearer to `n` than the rounded one. -/
theorem roundHalfEven_nearest (n D c : Nat) (hD : 0 < D) :
    ((roundHalfEven n D * D : Nat) - (n : Int)).natAbs ≤ ((c * D : Nat) - (n : Int)).natAbs ∧
      (((c * D : Nat) - (n : Int)).natAbs ≤ ((roundHalfEven n D * D : Nat) - (n : Int)).natAbs →
        c = roundHalfEven n D ∨ roundHalfEven n D % 2 = 0) := by
  obtain ⟨h1, h2, h3⟩ := roundHalfEven_bounds n D hD
  generalize roundHalfEven n D = R at *
  rcases Nat.lt_trichotomy c R with h | h | h
  · have : c * D + D ≤ R * D := by
      rw [← Nat.succ_mul]; exact Nat.mul_le_mul_right D h
    generalize c * D = x at *
    generalize R * D = y at *
    omega
  · subst h; exact ⟨Nat.le_refl _, fun _ => .inl rfl⟩
  · have : R * D + D ≤ c * D := by
      rw [← Nat.succ_mul]; exact Nat.mul_le_mul_right D h
    generalize c * D = x at *
    generalize R * D = y at *
    omega

/-! ### Patterns and what they denote -/

/-- The units of a magnitude pattern below infinity. -/
def FpFormat.magnitudeUnits (F : FpFormat) (c : Nat) : Nat :=
  if c / 2 ^ F.fbits = 0 then c % 2 ^ F.fbits
  else (2 ^ F.fbits + c % 2 ^ F.fbits) * 2 ^ (c / 2 ^ F.fbits - 1)

/-- Reading a pattern put together from a sign and a magnitude. -/
theorem FpFormat.unpack_signed (F : FpFormat) (neg : Bool) (c : Nat) (h : c < F.signUnit) :
    F.unpack ((if neg then F.signUnit else 0) + c) =
      if c / 2 ^ F.fbits = 2 ^ F.ebits - 1 then (if c % 2 ^ F.fbits = 0 then .inf neg else .nan)
      else .finite neg (F.magnitudeUnits c) := by
  have hs : F.signUnit = 2 ^ F.fbits * 2 ^ F.ebits := by rw [FpFormat.signUnit, Nat.pow_add, Nat.mul_comm]
  have hf : 0 < 2 ^ F.fbits := Nat.two_pow_pos _
  have h1 : ((if neg then F.signUnit else 0) + c) % 2 ^ F.fbits = c % 2 ^ F.fbits := by
    cases neg
    · simp
    · simp [hs, Nat.add_mod]
  have h2 : ((if neg then F.signUnit else 0) + c) / 2 ^ F.fbits % 2 ^ F.ebits = c / 2 ^ F.fbits := by
    have hc : c / 2 ^ F.fbits < 2 ^ F.ebits := by
      rw [Nat.div_lt_iff_lt_mul hf, Nat.mul_comm, ← hs]; exact h
    cases neg
    · simpa using Nat.mod_eq_of_lt hc
    · simp only [if_true, hs]
      rw [Nat.mul_add_div hf, Nat.add_mod_left, Nat.mod_eq_of_lt hc]
  have h3 : decide (((if neg then F.signUnit else 0) + c) / F.signUnit % 2 = 1) = neg := by
    have hp : 0 < F.signUnit := Nat.two_pow_pos _
    cases neg
    · simp [Nat.div_eq_of_lt h]
    · simp [Nat.add_div_left _ hp, Nat.div_eq_of_lt h]
  simp only [FpFormat.unpack, h1, h2, h3, FpFormat.magnitudeUnits]
  split
  · rfl
  · split <;> rfl

/-- The numbers of units a format holds: small ones, and significands of full width shifted. -/
theorem FpFormat.unpack_units {F : FpFormat} {w : Nat} {neg : Bool} {u : Nat}
    (h : F.unpack w = .finite neg u) :
    u < 2 ^ F.fbits ∨ ∃ fr j, fr < 2 ^ F.fbits ∧ u = (2 ^ F.fbits + fr) * 2 ^ j := by
  have hf : 0 < 2 ^ F.fbits := Nat.two_pow_pos _
  simp only [FpFormat.unpack] at h
  split at h
  · split at h <;> cases h
  · split at h <;> cases h
    · exact .inl (Nat.mod_lt _ hf)
    · exact .inr ⟨_, _, Nat.mod_lt _ hf, rfl⟩

/-- Every free NaN of binary32 is a NaN (42_fp_arith_convert.md R131 (a)). -/
theorem single_freeNan32 (k : Nat) : single (freeNan32 k) = .nan := by
  unfold freeNan32
  generalize Config.freeNan32 k = x
  obtain ⟨b, f⟩ := x
  have hf := f.isLt
  have h : (BitVec.ofBool b ++ 0xFF#8 ++ BitVec.ofNat 23 (f.val + 1) : Word).toNat =
      (if b then binary32.signUnit else 0) + (255 * 2 ^ 23 + (f.val + 1)) := by
    have e : (f.val + 1) % 2 ^ 23 = f.val + 1 := by omega
    simp only [BitVec.toNat_append, BitVec.toNat_ofNat, e]
    rw [← Nat.shiftLeft_add_eq_or_of_lt (by omega), ← Nat.shiftLeft_add_eq_or_of_lt (by decide)]
    simp only [Nat.shiftLeft_eq, FpFormat.signUnit, binary32]
    cases b
    · simp
    · simp; omega
  rw [single, h, FpFormat.unpack_signed _ _ _ (by simp only [FpFormat.signUnit, binary32]; omega)]
  rw [if_pos (by simp only [binary32]; omega), if_neg (by simp only [binary32]; omega)]

/-- Every free NaN of binary64 is a NaN (42_fp_arith_convert.md R131 (a)). -/
theorem double_freeNan64 (k : Nat) : double (freeNan64 k) = .nan := by
  unfold freeNan64
  generalize Config.freeNan64 k = x
  obtain ⟨b, f⟩ := x
  have hf := f.isLt
  have h : (BitVec.ofBool b ++ 0x7FF#11 ++ BitVec.ofNat 52 (f.val + 1) : DWord).toNat =
      (if b then binary64.signUnit else 0) + (2047 * 2 ^ 52 + (f.val + 1)) := by
    have e : (f.val + 1) % 2 ^ 52 = f.val + 1 := by omega
    simp only [BitVec.toNat_append, BitVec.toNat_ofNat, e]
    rw [← Nat.shiftLeft_add_eq_or_of_lt (by omega), ← Nat.shiftLeft_add_eq_or_of_lt (by decide)]
    simp only [Nat.shiftLeft_eq, FpFormat.signUnit, binary64]
    cases b
    · simp
    · simp; omega
  rw [double, h, FpFormat.unpack_signed _ _ _ (by simp only [FpFormat.signUnit, binary64]; omega)]
  rw [if_pos (by simp only [binary64]; omega), if_neg (by simp only [binary64]; omega)]

/-! ### Rounding a magnitude -/

/-- The exponent step at which `n / d` is rounded. -/
def FpFormat.roundStep (F : FpFormat) (n d : Nat) : Nat := Nat.log2 (n / d) - F.fbits

/-- Where the quotient lies, in units of its step. -/
theorem FpFormat.roundStep_bounds (F : FpFormat) (n d : Nat) (hd : 0 < d) :
    n < 2 ^ (F.fbits + 1) * (d * 2 ^ F.roundStep n d) ∧
      (0 < F.roundStep n d → 2 ^ F.fbits * (d * 2 ^ F.roundStep n d) ≤ n) := by
  have hk : F.roundStep n d = Nat.log2 (n / d) - F.fbits := rfl
  generalize F.roundStep n d = k at *
  constructor
  · have h1 : n / d < 2 ^ (F.fbits + 1 + k) :=
      Nat.lt_of_lt_of_le Nat.lt_log2_self (Nat.pow_le_pow_right (by omega) (by omega))
    rw [Nat.div_lt_iff_lt_mul hd, Nat.pow_add] at h1
    calc n < 2 ^ (F.fbits + 1) * 2 ^ k * d := h1
      _ = 2 ^ (F.fbits + 1) * (d * 2 ^ k) := by ring
  · intro h0
    have hq : n / d ≠ 0 := by
      intro h; rw [h] at hk; simp [Nat.log2] at hk; omega
    have h1 : 2 ^ (F.fbits + k) ≤ n / d := by
      have := Nat.log2_self_le hq
      rwa [show Nat.log2 (n / d) = F.fbits + k by omega] at this
    rw [Nat.le_div_iff_mul_le hd, Nat.pow_add] at h1
    calc 2 ^ F.fbits * (d * 2 ^ k) = 2 ^ F.fbits * 2 ^ k * d := by ring
      _ ≤ n := h1

/-- The rounded significand: `2^fbits` to `2^(fbits + 1)`, less only in the lowest step. -/
theorem FpFormat.significand_bounds (F : FpFormat) (n d : Nat) (hd : 0 < d) :
    roundHalfEven n (d * 2 ^ F.roundStep n d) ≤ 2 ^ (F.fbits + 1) ∧
      (0 < F.roundStep n d → 2 ^ F.fbits ≤ roundHalfEven n (d * 2 ^ F.roundStep n d)) := by
  obtain ⟨b1, b2⟩ := F.roundStep_bounds n d hd
  have hD : 0 < d * 2 ^ F.roundStep n d := Nat.mul_pos hd (Nat.two_pow_pos _)
  generalize F.roundStep n d = k at *
  generalize d * 2 ^ k = D at *
  obtain ⟨h1, h2, -⟩ := roundHalfEven_bounds n D hD
  generalize roundHalfEven n D = R at *
  generalize 2 ^ (F.fbits + 1) = T at *
  generalize 2 ^ F.fbits = B at *
  constructor
  · by_contra h
    have : (T + 1) * D ≤ R * D := Nat.mul_le_mul_right D (by omega)
    rw [Nat.succ_mul] at this
    omega
  · intro hk
    have b2 := b2 hk
    by_contra h
    have : (R + 1) * D ≤ B * D := Nat.mul_le_mul_right D (by omega)
    rw [Nat.succ_mul] at this
    omega

/-- What the pattern of the rounded magnitude denotes when it is no infinity. -/
theorem FpFormat.magnitudeUnits_round (F : FpFormat) (k R : Nat) (h1 : R ≤ 2 ^ (F.fbits + 1))
    (h2 : 0 < k → 2 ^ F.fbits ≤ R) : F.magnitudeUnits (k * 2 ^ F.fbits + R) = R * 2 ^ k := by
  have hf : 0 < 2 ^ F.fbits := Nat.two_pow_pos _
  have hT : 2 ^ (F.fbits + 1) = 2 ^ F.fbits + 2 ^ F.fbits := by rw [Nat.pow_succ]; omega
  rw [hT] at h1
  generalize hB : 2 ^ F.fbits = B at *
  have dv : ∀ a b, b < B → (a * B + b) / B = a ∧ (a * B + b) % B = b := by
    intro a b hb
    constructor
    · rw [Nat.mul_comm, Nat.mul_add_div hf, Nat.div_eq_of_lt hb, Nat.add_zero]
    · rw [Nat.mul_comm, Nat.mul_add_mod, Nat.mod_eq_of_lt hb]
  unfold FpFormat.magnitudeUnits
  rw [hB]
  rcases Nat.lt_or_ge R B with h | h
  · have hk : k = 0 := by by_contra hk; have := h2 (by omega); omega
    subst hk
    obtain ⟨e1, e2⟩ := dv 0 R h
    rw [e1, e2]; simp
  · rcases Nat.lt_or_ge R (B + B) with h' | h'
    · obtain ⟨r, rfl⟩ : ∃ r, R = B + r := ⟨R - B, by omega⟩
      obtain ⟨e1, e2⟩ := dv (k + 1) r (by omega)
      rw [show k * B + (B + r) = (k + 1) * B + r by ring, e1, e2, if_neg (by omega), Nat.add_sub_cancel]
    · obtain rfl : R = B + B := by omega
      obtain ⟨e1, e2⟩ := dv (k + 2) 0 hf
      rw [show k * B + (B + B) = (k + 2) * B + 0 by ring, e1, e2, if_neg (by omega),
        show k + 2 - 1 = k + 1 by omega, Nat.pow_succ]
      ring

/-- Rounding gives an infinity exactly from the overflow bound on. -/
theorem FpFormat.roundMagnitude_overflow (F : FpFormat) (n d : Nat) (hd : 0 < d) (he : 2 ≤ F.ebits) :
    F.infPattern ≤ F.roundStep n d * 2 ^ F.fbits + roundHalfEven n (d * 2 ^ F.roundStep n d) ↔
      F.overflowTwice * d ≤ 2 * n := by
  obtain ⟨b1, b2⟩ := F.roundStep_bounds n d hd
  obtain ⟨s1, s2⟩ := F.significand_bounds n d hd
  have hD : 0 < d * 2 ^ F.roundStep n d := Nat.mul_pos hd (Nat.two_pow_pos _)
  obtain ⟨r1, r2, r3⟩ := roundHalfEven_bounds n (d * 2 ^ F.roundStep n d) hD
  have hf : 0 < 2 ^ F.fbits := Nat.two_pow_pos _
  have hT : 2 ^ (F.fbits + 1) = 2 * 2 ^ F.fbits := by rw [Nat.pow_succ]; omega
  have hT2 : 2 ^ (F.fbits + 2) = 4 * 2 ^ F.fbits := by rw [Nat.pow_add]; omega
  obtain ⟨K, hK⟩ : ∃ K, 2 ^ F.ebits = K + 3 := by
    have h4 : 2 ^ 2 ≤ 2 ^ F.ebits := Nat.pow_le_pow_right (by omega) he
    exact ⟨2 ^ F.ebits - 3, by omega⟩
  unfold FpFormat.infPattern FpFormat.overflowTwice
  rw [hK, hT2, Nat.add_sub_cancel, show K + 3 - 1 = K + 2 by omega]
  rw [hT] at b1 s1
  generalize F.roundStep n d = k at *
  generalize roundHalfEven n (d * 2 ^ k) = R at *
  generalize 2 ^ F.fbits = B at *
  rcases Nat.lt_trichotomy k K with hk | hk | hk
  · -- below the top step: neither side holds
    have e1 : (k + 1) * B ≤ K * B := Nat.mul_le_mul_right B hk
    have e2 : d * 2 ^ (k + 1) ≤ d * 2 ^ K := Nat.mul_le_mul_left d (Nat.pow_le_pow_right (by omega) hk)
    have e3 : 2 * B * (2 * (d * 2 ^ k)) = 2 * B * (d * 2 ^ (k + 1)) := by rw [Nat.pow_succ]; ring
    have e4 : 2 * B * (d * 2 ^ (k + 1)) ≤ 2 * B * (d * 2 ^ K) := Nat.mul_le_mul_left _ e2
    have e5 : 2 * B * (d * 2 ^ K) ≤ (4 * B - 1) * (d * 2 ^ K) := Nat.mul_le_mul_right _ (by omega)
    have e6 : (4 * B - 1) * 2 ^ K * d = (4 * B - 1) * (d * 2 ^ K) := by ring
    constructor
    · intro h
      have : (K + 2) * B = K * B + 2 * B := by ring
      have : (k + 1) * B = k * B + B := by ring
      omega
    · intro h
      have : 2 * B * (2 * (d * 2 ^ k)) = 2 * (2 * B * (d * 2 ^ k)) := by ring
      omega
  · subst hk
    have e6 : (4 * B - 1) * 2 ^ k * d = 4 * B * (d * 2 ^ k) - d * 2 ^ k := by
      rw [show (4 * B - 1) * 2 ^ k * d = (4 * B - 1) * (d * 2 ^ k) by ring, Nat.sub_mul, Nat.one_mul]
    have e7 : (k + 2) * B = k * B + 2 * B := by ring
    rw [e6, e7]
    generalize d * 2 ^ k = D at *
    constructor
    · intro h
      obtain rfl : R = 2 * B := by omega
      have : 2 * (2 * B * D) = 4 * B * D := by ring
      omega
    · intro h
      by_contra hR
      have hlt : R + 1 ≤ 2 * B := by omega
      have : (R + 1) * D ≤ 2 * B * D := Nat.mul_le_mul_right D hlt
      have e8 : (R + 1) * D = R * D + D := Nat.succ_mul _ _
      have e9 : 2 * (2 * B * D) = 4 * B * D := by ring
      have heq : 2 * n = 2 * (R * D) + D := by omega
      have hev := r3 (.inr heq)
      have : R + 1 = 2 * B := by
        by_contra hne
        have : (R + 2) * D ≤ 2 * B * D := Nat.mul_le_mul_right D (by omega)
        have : (R + 2) * D = R * D + 2 * D := by ring
        omega
      omega
  · -- above the top step: both sides hold
    have e1 : (K + 1) * B ≤ k * B := Nat.mul_le_mul_right B hk
    have e2 : d * 2 ^ (K + 1) ≤ d * 2 ^ k := Nat.mul_le_mul_left d (Nat.pow_le_pow_right (by omega) hk)
    have e3 : B * (d * 2 ^ (K + 1)) ≤ B * (d * 2 ^ k) := Nat.mul_le_mul_left _ e2
    have e4 : (4 * B - 1) * 2 ^ K * d ≤ 4 * B * (d * 2 ^ K) := by
      rw [show (4 * B - 1) * 2 ^ K * d = (4 * B - 1) * (d * 2 ^ K) by ring]
      exact Nat.mul_le_mul_right _ (by omega)
    have e5 : 4 * B * (d * 2 ^ K) = 2 * (B * (d * 2 ^ (K + 1))) := by rw [Nat.pow_succ]; ring
    have hb := b2 (by omega)
    have hs := s2 (by omega)
    constructor
    · intro _; omega
    · intro _
      have : (K + 2) * B = (K + 1) * B + B := by ring
      omega

/-- No number of units the format holds is nearer to `n / d` than the rounded one. -/
theorem FpFormat.round_nearest (F : FpFormat) (n d : Nat) (hd : 0 < d) (u : Nat)
    (hu : u < 2 ^ F.fbits ∨ ∃ fr j, fr < 2 ^ F.fbits ∧ u = (2 ^ F.fbits + fr) * 2 ^ j) :
    let k := F.roundStep n d
    let R := roundHalfEven n (d * 2 ^ k)
    ((R * 2 ^ k * d : Nat) - (n : Int)).natAbs ≤ ((u * d : Nat) - (n : Int)).natAbs ∧
      (((u * d : Nat) - (n : Int)).natAbs ≤ ((R * 2 ^ k * d : Nat) - (n : Int)).natAbs →
        u = R * 2 ^ k ∨ R % 2 = 0) := by
  intro k R
  have hD : 0 < d * 2 ^ k := Nat.mul_pos hd (Nat.two_pow_pos _)
  have hR : R * 2 ^ k * d = R * (d * 2 ^ k) := by ring
  rw [hR]
  by_cases hc : ∃ c, u = c * 2 ^ k
  · obtain ⟨c, rfl⟩ := hc
    rw [show c * 2 ^ k * d = c * (d * 2 ^ k) by ring]
    obtain ⟨h1, h2⟩ := roundHalfEven_nearest n (d * 2 ^ k) c hD
    exact ⟨h1, fun h => (h2 h).imp (fun e => by rw [e]) id⟩
  · have hk : 0 < k := by
      by_contra h0
      exact hc ⟨u, by rw [show k = 0 by omega]; simp⟩
    have hlt : u < 2 ^ F.fbits * 2 ^ k := by
      rcases hu with hu | ⟨fr, j, hfr, rfl⟩
      · exact Nat.lt_of_lt_of_le hu (Nat.le_mul_of_pos_right _ (Nat.two_pow_pos _))
      · have hj : j < k := by
          by_contra hj
          refine hc ⟨(2 ^ F.fbits + fr) * 2 ^ (j - k), ?_⟩
          rw [Nat.mul_assoc, ← Nat.pow_add]
          congr 2
          omega
        calc (2 ^ F.fbits + fr) * 2 ^ j < (2 ^ F.fbits + 2 ^ F.fbits) * 2 ^ j :=
              Nat.mul_lt_mul_of_pos_right (by omega) (Nat.two_pow_pos _)
          _ = 2 ^ F.fbits * 2 ^ (j + 1) := by rw [Nat.pow_succ]; ring
          _ ≤ 2 ^ F.fbits * 2 ^ k := Nat.mul_le_mul_left _ (Nat.pow_le_pow_right (by omega) hj)
    have hb := (F.roundStep_bounds n d hd).2 hk
    have hud : u * d < 2 ^ F.fbits * (d * 2 ^ k) := by
      calc u * d < 2 ^ F.fbits * 2 ^ k * d := Nat.mul_lt_mul_of_pos_right hlt hd
        _ = 2 ^ F.fbits * (d * 2 ^ k) := by ring
    have h1 := (roundHalfEven_nearest n (d * 2 ^ k) (2 ^ F.fbits) hD).1
    change ((R * (d * 2 ^ k) : Nat) - (n : Int)).natAbs ≤ _ at h1
    have hb' : 2 ^ F.fbits * (d * 2 ^ k) ≤ n := hb
    generalize 2 ^ F.fbits * (d * 2 ^ k) = x at *
    generalize u * d = y at *
    generalize R * (d * 2 ^ k) = z at *
    omega

/-- Rounding is correct: the result of `FpFormat.round` is the exact number rounded to nearest even, in any
format with at least two exponent bits and one fraction bit. -/
theorem FpFormat.round_correct (F : FpFormat) (neg : Bool) (n d : Nat) (hd : 0 < d) (he : 2 ≤ F.ebits)
    (hf : 1 ≤ F.fbits) (num : Int) (hn : num = signedUnits neg n) :
    CorrectlyRounded F (F.round neg n d) num d := by
  have hB : 0 < 2 ^ F.fbits := Nat.two_pow_pos _
  have hE : 4 ≤ 2 ^ F.ebits := Nat.pow_le_pow_right (by omega : 0 < 2) he
  have habs : num.natAbs = n := by cases neg <;> simp [hn, signedUnits]
  have hinf : F.infPattern < F.signUnit := by
    unfold FpFormat.infPattern FpFormat.signUnit
    rw [Nat.pow_add]
    exact Nat.mul_lt_mul_of_pos_right (by omega) hB
  have hsign : num ≠ 0 → neg = decide (num < 0) := by
    intro h0
    cases neg
    · simp only [hn, signedUnits, Bool.false_eq_true, if_false, false_eq_decide_iff]; omega
    · simp only [hn, signedUnits, if_true, true_eq_decide_iff] at h0 ⊢; omega
  obtain ⟨s1, s2⟩ := F.significand_bounds n d hd
  have hov := F.roundMagnitude_overflow n d hd he
  have hval := F.magnitudeUnits_round (F.roundStep n d) _ s1 s2
  have hmag : F.roundMagnitude n d =
      min (F.roundStep n d * 2 ^ F.fbits + roundHalfEven n (d * 2 ^ F.roundStep n d)) F.infPattern := rfl
  refine ⟨_, rfl, ?_, ?_⟩
  · rw [hmag]; cases neg <;> simp <;> omega
  rw [habs]
  split
  · rename_i h
    rw [hmag, Nat.min_eq_right (hov.mpr h), F.unpack_signed _ _ hinf]
    have e1 : F.infPattern / 2 ^ F.fbits = 2 ^ F.ebits - 1 := Nat.mul_div_cancel _ hB
    have e2 : F.infPattern % 2 ^ F.fbits = 0 := Nat.mul_mod_left _ _
    rw [if_pos e1, if_pos e2]
    have : num ≠ 0 := by
      intro h0
      have : n = 0 := by omega
      subst this
      have : 0 < F.overflowTwice * d := by
        refine Nat.mul_pos (Nat.mul_pos ?_ (Nat.two_pow_pos _)) hd
        have : 2 ^ (F.fbits + 2) = 4 * 2 ^ F.fbits := by rw [Nat.pow_add]; omega
        omega
      omega
    rw [hsign this]
  · rename_i h
    have hlt : F.roundStep n d * 2 ^ F.fbits + roundHalfEven n (d * 2 ^ F.roundStep n d) < F.infPattern := by
      by_contra h'; exact h (hov.mp (by omega))
    rw [hmag, Nat.min_eq_left (Nat.le_of_lt hlt)]
    rw [F.unpack_signed _ _ (by omega), hval]
    have e1 : (F.roundStep n d * 2 ^ F.fbits + roundHalfEven n (d * 2 ^ F.roundStep n d)) / 2 ^ F.fbits ≠
        2 ^ F.ebits - 1 := by
      apply Nat.ne_of_lt
      rw [Nat.div_lt_iff_lt_mul hB]
      exact hlt
    rw [if_neg e1]
    refine ⟨neg, _, rfl, hsign, fun w neg' u hw => ?_⟩
    have hu := FpFormat.unpack_units hw
    have near := F.round_nearest n d hd u hu
    have near0 := F.round_nearest n d hd 0 (.inl hB)
    simp only at near near0
    have hev : ∀ x y, (x * 2 ^ F.fbits + y) % 2 = y % 2 ∧ F.signUnit % 2 = 0 := by
      intro x y
      obtain ⟨g, hg⟩ : ∃ g, F.fbits = g + 1 := ⟨F.fbits - 1, by omega⟩
      have : 2 ^ F.fbits = 2 * 2 ^ g := by rw [hg, Nat.pow_succ]; omega
      refine ⟨?_, ?_⟩
      · rw [this, show x * (2 * 2 ^ g) = 2 * (x * 2 ^ g) by ring]; omega
      · unfold FpFormat.signUnit; rw [Nat.pow_add, this, ← Nat.mul_assoc, Nat.mul_comm _ 2, Nat.mul_assoc]
        omega
    have hpar := hev (F.roundStep n d) (roundHalfEven n (d * 2 ^ F.roundStep n d))
    generalize roundHalfEven n (d * 2 ^ F.roundStep n d) = R at *
    generalize F.roundStep n d = k at *
    have hv : ∀ b : Bool, (((if b then F.signUnit else 0) + (k * 2 ^ F.fbits + R)) % 2 = R % 2) := by
      intro b; cases b <;> simp <;> omega
    rw [hv]
    have key : ∀ (b : Bool) (x : Nat), (signedUnits b x * (d : Int)) = signedUnits b (x * d) := by
      intro b x; cases b <;> simp [signedUnits]
    unfold NearerOrEqual
    rw [key, key, hn]
    generalize R * 2 ^ k = p at *
    have hpz : p * d = 0 → p = 0 := fun h => by
      rcases Nat.mul_eq_zero.mp h with h | h
      · exact h
      · omega
    have huz : u * d = 0 → u = 0 := fun h => by
      rcases Nat.mul_eq_zero.mp h with h | h
      · exact h
      · omega
    have hup : u * d = p * d → u = p := fun h => Nat.eq_of_mul_eq_mul_right hd h
    have hpu : u = p → u * d = p * d := fun h => by rw [h]
    generalize u * d = y at *
    generalize p * d = z at *
    cases neg <;> cases neg' <;> simp only [signedUnits, if_true, if_false, Bool.false_eq_true] <;> omega

end Sys2Proof.Machine
end

