-- ==== Sys2Proof/Laws/PerInstr.lean ====
section
/-! SUPPORT. The family `EncodeDecode`: the word of an instruction decodes to the instruction, one lemma for
each constructor. -/

namespace Sys2Proof.Laws

/-- A field above the low part of a concatenation. -/
theorem extract_append_high {n m : Nat} (a : BitVec n) (b : BitVec m) (i k : Nat) (h : m ≤ i) :
    (a ++ b).extractLsb' i k = a.extractLsb' (i - m) k := by
  apply BitVec.eq_of_getLsbD_eq
  intro j hj
  simp only [BitVec.getLsbD_extractLsb', BitVec.getLsbD_append, hj, decide_true, Bool.true_and]
  rw [if_neg (by omega)]
  congr 1
  omega

/-- A field inside the low part of a concatenation. -/
theorem extract_append_low {n m : Nat} (a : BitVec n) (b : BitVec m) (i k : Nat) (h : i + k ≤ m) :
    (a ++ b).extractLsb' i k = b.extractLsb' i k := by
  apply BitVec.eq_of_getLsbD_eq
  intro j hj
  simp only [BitVec.getLsbD_extractLsb', BitVec.getLsbD_append, hj, decide_true, Bool.true_and]
  rw [if_pos (by omega)]

/-- The high part of a concatenation. -/
theorem extract_append_left {n m : Nat} (a : BitVec n) (b : BitVec m) : (a ++ b).extractLsb' m n = a := by
  rw [extract_append_high a b m n (Nat.le_refl m), Nat.sub_self, BitVec.extractLsb'_eq_self]

/-- The low part of a concatenation. -/
theorem extract_append_right {n m : Nat} (a : BitVec n) (b : BitVec m) : (a ++ b).extractLsb' 0 m = b := by
  rw [extract_append_low a b 0 m (by omega), BitVec.extractLsb'_eq_self]

section Fields
variable (op : BitVec 6) (s c d : RegNum) (f : BitVec 11) (imm : Imm16) (dest : Dest26)

@[simp] theorem opField_packR : opField (packR op s c d f) = op :=
  (extract_append_high (n := 21) (m := 11) _ _ 26 6 (by decide)).trans <|
  (extract_append_high (n := 16) (m := 5) _ _ 15 6 (by decide)).trans <|
  (extract_append_high (n := 11) (m := 5) _ _ 10 6 (by decide)).trans <|
  extract_append_left (n := 6) (m := 5) op _

@[simp] theorem funcField_packR : funcField (packR op s c d f) = f :=
  extract_append_right (n := 21) (m := 11) _ f

@[simp] theorem fieldXs_packR : fieldXs (packR op s c d f) = s :=
  congrArg BitVec.toFin <| (extract_append_high (n := 21) (m := 11) _ _ 21 5 (by decide)).trans <|
  (extract_append_high (n := 16) (m := 5) _ _ 10 5 (by decide)).trans <|
  (extract_append_high (n := 11) (m := 5) _ _ 5 5 (by decide)).trans <|
  extract_append_right (n := 6) (m := 5) op _

@[simp] theorem fieldXc_packR : fieldXc (packR op s c d f) = c :=
  congrArg BitVec.toFin <| (extract_append_high (n := 21) (m := 11) _ _ 16 5 (by decide)).trans <|
  (extract_append_high (n := 16) (m := 5) _ _ 5 5 (by decide)).trans <|
  extract_append_right (n := 11) (m := 5) _ _

@[simp] theorem fieldXdR_packR : fieldXdR (packR op s c d f) = d :=
  congrArg BitVec.toFin <| (extract_append_high (n := 21) (m := 11) _ _ 11 5 (by decide)).trans <|
  extract_append_right (n := 16) (m := 5) _ _

@[simp] theorem opField_packI : opField (packI op s d imm) = op :=
  (extract_append_high (n := 16) (m := 16) _ _ 26 6 (by decide)).trans <|
  (extract_append_high (n := 11) (m := 5) _ _ 10 6 (by decide)).trans <|
  extract_append_left (n := 6) (m := 5) op _

@[simp] theorem fieldXs_packI : fieldXs (packI op s d imm) = s :=
  congrArg BitVec.toFin <| (extract_append_high (n := 16) (m := 16) _ _ 21 5 (by decide)).trans <|
  (extract_append_high (n := 11) (m := 5) _ _ 5 5 (by decide)).trans <|
  extract_append_right (n := 6) (m := 5) op _

@[simp] theorem fieldXdI_packI : fieldXdI (packI op s d imm) = d :=
  congrArg BitVec.toFin <| (extract_append_high (n := 16) (m := 16) _ _ 16 5 (by decide)).trans <|
  extract_append_right (n := 11) (m := 5) _ _

@[simp] theorem immField_packI : immField (packI op s d imm) = imm :=
  extract_append_right (n := 16) (m := 16) _ imm

@[simp] theorem opField_packJ : opField (packJ op dest) = op :=
  extract_append_left (n := 6) (m := 26) op dest

@[simp] theorem destField_packJ : destField (packJ op dest) = dest :=
  extract_append_right (n := 6) (m := 26) op dest

end Fields

/-- Decoding goes by the opcode. -/
theorem decode_by_op {w : Word} {op : BitVec 6} {r : Except DecodeReject Instr} (h : opField w = op)
    (k : decodeOp op w = r) : decode w = r := (congrArg (decodeOp · w) h).trans k

/-- A word of opcode 00 is decoded by its function. -/
theorem decode_by_func00 {w : Word} {func : BitVec 11} {r : Except DecodeReject Instr}
    (h : opField w = 0x00#6) (hf : funcField w = func) (k : decodeOp00 func w = r) : decode w = r :=
  decode_by_op h ((congrArg (decodeOp00 · w) hf).trans k)

/-- A word of opcode 01 is decoded by its function. -/
theorem decode_by_func01 {w : Word} {func : BitVec 11} {r : Except DecodeReject Instr}
    (h : opField w = 0x01#6) (hf : funcField w = func) (k : decodeOp01 func w = r) : decode w = r :=
  decode_by_op h ((congrArg (decodeOp01 · w) hf).trans k)

/-- A constructor of equal fields. -/
theorem congr_ok1 {α : Type} (k : α → Instr) {a a' : α} (h : a = a') :
    (Except.ok (k a) : Except DecodeReject Instr) = .ok (k a') := h ▸ rfl
theorem congr_ok2 {α β : Type} (k : α → β → Instr) {a a' : α} {b b' : β} (h : a = a') (i : b = b') :
    (Except.ok (k a b) : Except DecodeReject Instr) = .ok (k a' b') := h ▸ i ▸ rfl
theorem congr_ok3 {α β γ : Type} (k : α → β → γ → Instr) {a a' : α} {b b' : β} {c c' : γ} (h : a = a')
    (i : b = b') (j : c = c') :
    (Except.ok (k a b c) : Except DecodeReject Instr) = .ok (k a' b' c') := h ▸ i ▸ j ▸ rfl

/-- Decoding the word of the instruction gives the instruction (30_encoding.md R59, R60). -/
def EncodeDecode.Statement (i : Instr) : Prop := decode (encode i) = .ok i

theorem EncodeDecode.sll (rd : RegNum) (rs : RegNum) (rc : RegNum) : EncodeDecode.Statement (.sll rd rs rc) :=
  decode_by_func00 (opField_packR ..) (funcField_packR ..) <|
  congr_ok3 Instr.sll (fieldXdR_packR ..) (fieldXs_packR ..) (fieldXc_packR ..)
theorem EncodeDecode.srl (rd : RegNum) (rs : RegNum) (rc : RegNum) : EncodeDecode.Statement (.srl rd rs rc) :=
  decode_by_func00 (opField_packR ..) (funcField_packR ..) <|
  congr_ok3 Instr.srl (fieldXdR_packR ..) (fieldXs_packR ..) (fieldXc_packR ..)
theorem EncodeDecode.sra (rd : RegNum) (rs : RegNum) (rc : RegNum) : EncodeDecode.Statement (.sra rd rs rc) :=
  decode_by_func00 (opField_packR ..) (funcField_packR ..) <|
  congr_ok3 Instr.sra (fieldXdR_packR ..) (fieldXs_packR ..) (fieldXc_packR ..)
theorem EncodeDecode.add (rd : RegNum) (rs : RegNum) (rc : RegNum) : EncodeDecode.Statement (.add rd rs rc) :=
  decode_by_func00 (opField_packR ..) (funcField_packR ..) <|
  congr_ok3 Instr.add (fieldXdR_packR ..) (fieldXs_packR ..) (fieldXc_packR ..)
theorem EncodeDecode.addu (rd : RegNum) (rs : RegNum) (rc : RegNum) : EncodeDecode.Statement (.addu rd rs rc) :=
  decode_by_func00 (opField_packR ..) (funcField_packR ..) <|
  congr_ok3 Instr.addu (fieldXdR_packR ..) (fieldXs_packR ..) (fieldXc_packR ..)
theorem EncodeDecode.sub (rd : RegNum) (rs : RegNum) (rc : RegNum) : EncodeDecode.Statement (.sub rd rs rc) :=
  decode_by_func00 (opField_packR ..) (funcField_packR ..) <|
  congr_ok3 Instr.sub (fieldXdR_packR ..) (fieldXs_packR ..) (fieldXc_packR ..)
theorem EncodeDecode.subu (rd : RegNum) (rs : RegNum) (rc : RegNum) : EncodeDecode.Statement (.subu rd rs rc) :=
  decode_by_func00 (opField_packR ..) (funcField_packR ..) <|
  congr_ok3 Instr.subu (fieldXdR_packR ..) (fieldXs_packR ..) (fieldXc_packR ..)
theorem EncodeDecode.and (rd : RegNum) (rs : RegNum) (rc : RegNum) : EncodeDecode.Statement (.and rd rs rc) :=
  decode_by_func00 (opField_packR ..) (funcField_packR ..) <|
  congr_ok3 Instr.and (fieldXdR_packR ..) (fieldXs_packR ..) (fieldXc_packR ..)
theorem EncodeDecode.or (rd : RegNum) (rs : RegNum) (rc : RegNum) : EncodeDecode.Statement (.or rd rs rc) :=
  decode_by_func00 (opField_packR ..) (funcField_packR ..) <|
  congr_ok3 Instr.or (fieldXdR_packR ..) (fieldXs_packR ..) (fieldXc_packR ..)
theorem EncodeDecode.xor (rd : RegNum) (rs : RegNum) (rc : RegNum) : EncodeDecode.Statement (.xor rd rs rc) :=
  decode_by_func00 (opField_packR ..) (funcField_packR ..) <|
  congr_ok3 Instr.xor (fieldXdR_packR ..) (fieldXs_packR ..) (fieldXc_packR ..)
theorem EncodeDecode.seq (rd : RegNum) (rs : RegNum) (rc : RegNum) : EncodeDecode.Statement (.seq rd rs rc) :=
  decode_by_func00 (opField_packR ..) (funcField_packR ..) <|
  congr_ok3 Instr.seq (fieldXdR_packR ..) (fieldXs_packR ..) (fieldXc_packR ..)
theorem EncodeDecode.sne (rd : RegNum) (rs : RegNum) (rc : RegNum) : EncodeDecode.Statement (.sne rd rs rc) :=
  decode_by_func00 (opField_packR ..) (funcField_packR ..) <|
  congr_ok3 Instr.sne (fieldXdR_packR ..) (fieldXs_packR ..) (fieldXc_packR ..)
theorem EncodeDecode.slt (rd : RegNum) (rs : RegNum) (rc : RegNum) : EncodeDecode.Statement (.slt rd rs rc) :=
  decode_by_func00 (opField_packR ..) (funcField_packR ..) <|
  congr_ok3 Instr.slt (fieldXdR_packR ..) (fieldXs_packR ..) (fieldXc_packR ..)
theorem EncodeDecode.sgt (rd : RegNum) (rs : RegNum) (rc : RegNum) : EncodeDecode.Statement (.sgt rd rs rc) :=
  decode_by_func00 (opField_packR ..) (funcField_packR ..) <|
  congr_ok3 Instr.sgt (fieldXdR_packR ..) (fieldXs_packR ..) (fieldXc_packR ..)
theorem EncodeDecode.sle (rd : RegNum) (rs : RegNum) (rc : RegNum) : EncodeDecode.Statement (.sle rd rs rc) :=
  decode_by_func00 (opField_packR ..) (funcField_packR ..) <|
  congr_ok3 Instr.sle (fieldXdR_packR ..) (fieldXs_packR ..) (fieldXc_packR ..)
theorem EncodeDecode.sge (rd : RegNum) (rs : RegNum) (rc : RegNum) : EncodeDecode.Statement (.sge rd rs rc) :=
  decode_by_func00 (opField_packR ..) (funcField_packR ..) <|
  congr_ok3 Instr.sge (fieldXdR_packR ..) (fieldXs_packR ..) (fieldXc_packR ..)
theorem EncodeDecode.movi2s (rs : RegNum) : EncodeDecode.Statement (.movi2s rs) :=
  decode_by_func00 (opField_packR ..) (funcField_packR ..) <|
  congr_ok1 Instr.movi2s (fieldXs_packR ..)
theorem EncodeDecode.movs2i (rd : RegNum) : EncodeDecode.Statement (.movs2i rd) :=
  decode_by_func00 (opField_packR ..) (funcField_packR ..) <|
  congr_ok1 Instr.movs2i (fieldXdR_packR ..)
theorem EncodeDecode.movf (fd : RegNum) (fs : RegNum) : EncodeDecode.Statement (.movf fd fs) :=
  decode_by_func00 (opField_packR ..) (funcField_packR ..) <|
  congr_ok2 Instr.movf (fieldXdR_packR ..) (fieldXs_packR ..)
theorem EncodeDecode.movd (dd : RegNum) (ds : RegNum) : EncodeDecode.Statement (.movd dd ds) :=
  decode_by_func00 (opField_packR ..) (funcField_packR ..) <|
  congr_ok2 Instr.movd (fieldXdR_packR ..) (fieldXs_packR ..)
theorem EncodeDecode.movfp2i (rd : RegNum) (fs : RegNum) : EncodeDecode.Statement (.movfp2i rd fs) :=
  decode_by_func00 (opField_packR ..) (funcField_packR ..) <|
  congr_ok2 Instr.movfp2i (fieldXdR_packR ..) (fieldXs_packR ..)
theorem EncodeDecode.movi2fp (fd : RegNum) (rs : RegNum) : EncodeDecode.Statement (.movi2fp fd rs) :=
  decode_by_func00 (opField_packR ..) (funcField_packR ..) <|
  congr_ok2 Instr.movi2fp (fieldXdR_packR ..) (fieldXs_packR ..)
theorem EncodeDecode.addf (fd : RegNum) (fs : RegNum) (fc : RegNum) : EncodeDecode.Statement (.addf fd fs fc) :=
  decode_by_func01 (opField_packR ..) (funcField_packR ..) <|
  congr_ok3 Instr.addf (fieldXdR_packR ..) (fieldXs_packR ..) (fieldXc_packR ..)
theorem EncodeDecode.subf (fd : RegNum) (fs : RegNum) (fc : RegNum) : EncodeDecode.Statement (.subf fd fs fc) :=
  decode_by_func01 (opField_packR ..) (funcField_packR ..) <|
  congr_ok3 Instr.subf (fieldXdR_packR ..) (fieldXs_packR ..) (fieldXc_packR ..)
theorem EncodeDecode.multf (fd : RegNum) (fs : RegNum) (fc : RegNum) : EncodeDecode.Statement (.multf fd fs fc) :=
  decode_by_func01 (opField_packR ..) (funcField_packR ..) <|
  congr_ok3 Instr.multf (fieldXdR_packR ..) (fieldXs_packR ..) (fieldXc_packR ..)
theorem EncodeDecode.divf (fd : RegNum) (fs : RegNum) (fc : RegNum) : EncodeDecode.Statement (.divf fd fs fc) :=
  decode_by_func01 (opField_packR ..) (funcField_packR ..) <|
  congr_ok3 Instr.divf (fieldXdR_packR ..) (fieldXs_packR ..) (fieldXc_packR ..)
theorem EncodeDecode.addd (dd : RegNum) (ds : RegNum) (dc : RegNum) : EncodeDecode.Statement (.addd dd ds dc) :=
  decode_by_func01 (opField_packR ..) (funcField_packR ..) <|
  congr_ok3 Instr.addd (fieldXdR_packR ..) (fieldXs_packR ..) (fieldXc_packR ..)
theorem EncodeDecode.subd (dd : RegNum) (ds : RegNum) (dc : RegNum) : EncodeDecode.Statement (.subd dd ds dc) :=
  decode_by_func01 (opField_packR ..) (funcField_packR ..) <|
  congr_ok3 Instr.subd (fieldXdR_packR ..) (fieldXs_packR ..) (fieldXc_packR ..)
theorem EncodeDecode.multd (dd : RegNum) (ds : RegNum) (dc : RegNum) : EncodeDecode.Statement (.multd dd ds dc) :=
  decode_by_func01 (opField_packR ..) (funcField_packR ..) <|
  congr_ok3 Instr.multd (fieldXdR_packR ..) (fieldXs_packR ..) (fieldXc_packR ..)
theorem EncodeDecode.divd (dd : RegNum) (ds : RegNum) (dc : RegNum) : EncodeDecode.Statement (.divd dd ds dc) :=
  decode_by_func01 (opField_packR ..) (funcField_packR ..) <|
  congr_ok3 Instr.divd (fieldXdR_packR ..) (fieldXs_packR ..) (fieldXc_packR ..)
theorem EncodeDecode.cvtf2d (dd : RegNum) (fs : RegNum) : EncodeDecode.Statement (.cvtf2d dd fs) :=
  decode_by_func01 (opField_packR ..) (funcField_packR ..) <|
  congr_ok2 Instr.cvtf2d (fieldXdR_packR ..) (fieldXs_packR ..)
theorem EncodeDecode.cvtf2i (rd : RegNum) (fs : RegNum) : EncodeDecode.Statement (.cvtf2i rd fs) :=
  decode_by_func01 (opField_packR ..) (funcField_packR ..) <|
  congr_ok2 Instr.cvtf2i (fieldXdR_packR ..) (fieldXs_packR ..)
theorem EncodeDecode.cvtd2f (fd : RegNum) (ds : RegNum) : EncodeDecode.Statement (.cvtd2f fd ds) :=
  decode_by_func01 (opField_packR ..) (funcField_packR ..) <|
  congr_ok2 Instr.cvtd2f (fieldXdR_packR ..) (fieldXs_packR ..)
theorem EncodeDecode.cvtd2i (rd : RegNum) (ds : RegNum) : EncodeDecode.Statement (.cvtd2i rd ds) :=
  decode_by_func01 (opField_packR ..) (funcField_packR ..) <|
  congr_ok2 Instr.cvtd2i (fieldXdR_packR ..) (fieldXs_packR ..)
theorem EncodeDecode.cvti2f (fd : RegNum) (rs : RegNum) : EncodeDecode.Statement (.cvti2f fd rs) :=
  decode_by_func01 (opField_packR ..) (funcField_packR ..) <|
  congr_ok2 Instr.cvti2f (fieldXdR_packR ..) (fieldXs_packR ..)
theorem EncodeDecode.cvti2d (dd : RegNum) (rs : RegNum) : EncodeDecode.Statement (.cvti2d dd rs) :=
  decode_by_func01 (opField_packR ..) (funcField_packR ..) <|
  congr_ok2 Instr.cvti2d (fieldXdR_packR ..) (fieldXs_packR ..)
theorem EncodeDecode.mult (rd : RegNum) (rs : RegNum) (rc : RegNum) : EncodeDecode.Statement (.mult rd rs rc) :=
  decode_by_func01 (opField_packR ..) (funcField_packR ..) <|
  congr_ok3 Instr.mult (fieldXdR_packR ..) (fieldXs_packR ..) (fieldXc_packR ..)
theorem EncodeDecode.div (rd : RegNum) (rs : RegNum) (rc : RegNum) : EncodeDecode.Statement (.div rd rs rc) :=
  decode_by_func01 (opField_packR ..) (funcField_packR ..) <|
  congr_ok3 Instr.div (fieldXdR_packR ..) (fieldXs_packR ..) (fieldXc_packR ..)
theorem EncodeDecode.eqf (fs : RegNum) (fc : RegNum) : EncodeDecode.Statement (.eqf fs fc) :=
  decode_by_func01 (opField_packR ..) (funcField_packR ..) <|
  congr_ok2 Instr.eqf (fieldXs_packR ..) (fieldXc_packR ..)
theorem EncodeDecode.nef (fs : RegNum) (fc : RegNum) : EncodeDecode.Statement (.nef fs fc) :=
  decode_by_func01 (opField_packR ..) (funcField_packR ..) <|
  congr_ok2 Instr.nef (fieldXs_packR ..) (fieldXc_packR ..)
theorem EncodeDecode.ltf (fs : RegNum) (fc : RegNum) : EncodeDecode.Statement (.ltf fs fc) :=
  decode_by_func01 (opField_packR ..) (funcField_packR ..) <|
  congr_ok2 Instr.ltf (fieldXs_packR ..) (fieldXc_packR ..)
theorem EncodeDecode.gtf (fs : RegNum) (fc : RegNum) : EncodeDecode.Statement (.gtf fs fc) :=
  decode_by_func01 (opField_packR ..) (funcField_packR ..) <|
  congr_ok2 Instr.gtf (fieldXs_packR ..) (fieldXc_packR ..)
theorem EncodeDecode.lef (fs : RegNum) (fc : RegNum) : EncodeDecode.Statement (.lef fs fc) :=
  decode_by_func01 (opField_packR ..) (funcField_packR ..) <|
  congr_ok2 Instr.lef (fieldXs_packR ..) (fieldXc_packR ..)
theorem EncodeDecode.gef (fs : RegNum) (fc : RegNum) : EncodeDecode.Statement (.gef fs fc) :=
  decode_by_func01 (opField_packR ..) (funcField_packR ..) <|
  congr_ok2 Instr.gef (fieldXs_packR ..) (fieldXc_packR ..)
theorem EncodeDecode.multu (rd : RegNum) (rs : RegNum) (rc : RegNum) : EncodeDecode.Statement (.multu rd rs rc) :=
  decode_by_func01 (opField_packR ..) (funcField_packR ..) <|
  congr_ok3 Instr.multu (fieldXdR_packR ..) (fieldXs_packR ..) (fieldXc_packR ..)
theorem EncodeDecode.divu (rd : RegNum) (rs : RegNum) (rc : RegNum) : EncodeDecode.Statement (.divu rd rs rc) :=
  decode_by_func01 (opField_packR ..) (funcField_packR ..) <|
  congr_ok3 Instr.divu (fieldXdR_packR ..) (fieldXs_packR ..) (fieldXc_packR ..)
theorem EncodeDecode.eqd (ds : RegNum) (dc : RegNum) : EncodeDecode.Statement (.eqd ds dc) :=
  decode_by_func01 (opField_packR ..) (funcField_packR ..) <|
  congr_ok2 Instr.eqd (fieldXs_packR ..) (fieldXc_packR ..)
theorem EncodeDecode.ned (ds : RegNum) (dc : RegNum) : EncodeDecode.Statement (.ned ds dc) :=
  decode_by_func01 (opField_packR ..) (funcField_packR ..) <|
  congr_ok2 Instr.ned (fieldXs_packR ..) (fieldXc_packR ..)
theorem EncodeDecode.ltd (ds : RegNum) (dc : RegNum) : EncodeDecode.Statement (.ltd ds dc) :=
  decode_by_func01 (opField_packR ..) (funcField_packR ..) <|
  congr_ok2 Instr.ltd (fieldXs_packR ..) (fieldXc_packR ..)
theorem EncodeDecode.gtd (ds : RegNum) (dc : RegNum) : EncodeDecode.Statement (.gtd ds dc) :=
  decode_by_func01 (opField_packR ..) (funcField_packR ..) <|
  congr_ok2 Instr.gtd (fieldXs_packR ..) (fieldXc_packR ..)
theorem EncodeDecode.led (ds : RegNum) (dc : RegNum) : EncodeDecode.Statement (.led ds dc) :=
  decode_by_func01 (opField_packR ..) (funcField_packR ..) <|
  congr_ok2 Instr.led (fieldXs_packR ..) (fieldXc_packR ..)
theorem EncodeDecode.ged (ds : RegNum) (dc : RegNum) : EncodeDecode.Statement (.ged ds dc) :=
  decode_by_func01 (opField_packR ..) (funcField_packR ..) <|
  congr_ok2 Instr.ged (fieldXs_packR ..) (fieldXc_packR ..)
theorem EncodeDecode.j (dest : Dest26) : EncodeDecode.Statement (.j dest) :=
  decode_by_op (opField_packJ ..) <|
  congr_ok1 Instr.j (destField_packJ ..)
theorem EncodeDecode.jal (dest : Dest26) : EncodeDecode.Statement (.jal dest) :=
  decode_by_op (opField_packJ ..) <|
  congr_ok1 Instr.jal (destField_packJ ..)
theorem EncodeDecode.beqz (rs : RegNum) (imm : Imm16) : EncodeDecode.Statement (.beqz rs imm) :=
  decode_by_op (opField_packI ..) <|
  congr_ok2 Instr.beqz (fieldXs_packI ..) (immField_packI ..)
theorem EncodeDecode.bnez (rs : RegNum) (imm : Imm16) : EncodeDecode.Statement (.bnez rs imm) :=
  decode_by_op (opField_packI ..) <|
  congr_ok2 Instr.bnez (fieldXs_packI ..) (immField_packI ..)
theorem EncodeDecode.bfpt (imm : Imm16) : EncodeDecode.Statement (.bfpt imm) :=
  decode_by_op (opField_packI ..) <|
  congr_ok1 Instr.bfpt (immField_packI ..)
theorem EncodeDecode.bfpf (imm : Imm16) : EncodeDecode.Statement (.bfpf imm) :=
  decode_by_op (opField_packI ..) <|
  congr_ok1 Instr.bfpf (immField_packI ..)
theorem EncodeDecode.addi (rd : RegNum) (rs : RegNum) (imm : Imm16) : EncodeDecode.Statement (.addi rd rs imm) :=
  decode_by_op (opField_packI ..) <|
  congr_ok3 Instr.addi (fieldXdI_packI ..) (fieldXs_packI ..) (immField_packI ..)
theorem EncodeDecode.addui (rd : RegNum) (rs : RegNum) (imm : Imm16) : EncodeDecode.Statement (.addui rd rs imm) :=
  decode_by_op (opField_packI ..) <|
  congr_ok3 Instr.addui (fieldXdI_packI ..) (fieldXs_packI ..) (immField_packI ..)
theorem EncodeDecode.subi (rd : RegNum) (rs : RegNum) (imm : Imm16) : EncodeDecode.Statement (.subi rd rs imm) :=
  decode_by_op (opField_packI ..) <|
  congr_ok3 Instr.subi (fieldXdI_packI ..) (fieldXs_packI ..) (immField_packI ..)
theorem EncodeDecode.subui (rd : RegNum) (rs : RegNum) (imm : Imm16) : EncodeDecode.Statement (.subui rd rs imm) :=
  decode_by_op (opField_packI ..) <|
  congr_ok3 Instr.subui (fieldXdI_packI ..) (fieldXs_packI ..) (immField_packI ..)
theorem EncodeDecode.andi (rd : RegNum) (rs : RegNum) (imm : Imm16) : EncodeDecode.Statement (.andi rd rs imm) :=
  decode_by_op (opField_packI ..) <|
  congr_ok3 Instr.andi (fieldXdI_packI ..) (fieldXs_packI ..) (immField_packI ..)
theorem EncodeDecode.ori (rd : RegNum) (rs : RegNum) (imm : Imm16) : EncodeDecode.Statement (.ori rd rs imm) :=
  decode_by_op (opField_packI ..) <|
  congr_ok3 Instr.ori (fieldXdI_packI ..) (fieldXs_packI ..) (immField_packI ..)
theorem EncodeDecode.xori (rd : RegNum) (rs : RegNum) (imm : Imm16) : EncodeDecode.Statement (.xori rd rs imm) :=
  decode_by_op (opField_packI ..) <|
  congr_ok3 Instr.xori (fieldXdI_packI ..) (fieldXs_packI ..) (immField_packI ..)
theorem EncodeDecode.lhi (rd : RegNum) (imm : Imm16) : EncodeDecode.Statement (.lhi rd imm) :=
  decode_by_op (opField_packI ..) <|
  congr_ok2 Instr.lhi (fieldXdI_packI ..) (immField_packI ..)
theorem EncodeDecode.rfe : EncodeDecode.Statement .rfe :=
  decode_by_op (opField_packJ ..) <|
  rfl
theorem EncodeDecode.trap (trap : Dest26) : EncodeDecode.Statement (.trap trap) :=
  decode_by_op (opField_packJ ..) <|
  congr_ok1 Instr.trap (destField_packJ ..)
theorem EncodeDecode.jr (rs : RegNum) : EncodeDecode.Statement (.jr rs) :=
  decode_by_op (opField_packI ..) <|
  congr_ok1 Instr.jr (fieldXs_packI ..)
theorem EncodeDecode.jalr (rs : RegNum) : EncodeDecode.Statement (.jalr rs) :=
  decode_by_op (opField_packI ..) <|
  congr_ok1 Instr.jalr (fieldXs_packI ..)
theorem EncodeDecode.slli (rd : RegNum) (rs : RegNum) (imm : Imm16) : EncodeDecode.Statement (.slli rd rs imm) :=
  decode_by_op (opField_packI ..) <|
  congr_ok3 Instr.slli (fieldXdI_packI ..) (fieldXs_packI ..) (immField_packI ..)
theorem EncodeDecode.srli (rd : RegNum) (rs : RegNum) (imm : Imm16) : EncodeDecode.Statement (.srli rd rs imm) :=
  decode_by_op (opField_packI ..) <|
  congr_ok3 Instr.srli (fieldXdI_packI ..) (fieldXs_packI ..) (immField_packI ..)
theorem EncodeDecode.srai (rd : RegNum) (rs : RegNum) (imm : Imm16) : EncodeDecode.Statement (.srai rd rs imm) :=
  decode_by_op (opField_packI ..) <|
  congr_ok3 Instr.srai (fieldXdI_packI ..) (fieldXs_packI ..) (immField_packI ..)
theorem EncodeDecode.seqi (rd : RegNum) (rs : RegNum) (imm : Imm16) : EncodeDecode.Statement (.seqi rd rs imm) :=
  decode_by_op (opField_packI ..) <|
  congr_ok3 Instr.seqi (fieldXdI_packI ..) (fieldXs_packI ..) (immField_packI ..)
theorem EncodeDecode.snei (rd : RegNum) (rs : RegNum) (imm : Imm16) : EncodeDecode.Statement (.snei rd rs imm) :=
  decode_by_op (opField_packI ..) <|
  congr_ok3 Instr.snei (fieldXdI_packI ..) (fieldXs_packI ..) (immField_packI ..)
theorem EncodeDecode.slti (rd : RegNum) (rs : RegNum) (imm : Imm16) : EncodeDecode.Statement (.slti rd rs imm) :=
  decode_by_op (opField_packI ..) <|
  congr_ok3 Instr.slti (fieldXdI_packI ..) (fieldXs_packI ..) (immField_packI ..)
theorem EncodeDecode.sgti (rd : RegNum) (rs : RegNum) (imm : Imm16) : EncodeDecode.Statement (.sgti rd rs imm) :=
  decode_by_op (opField_packI ..) <|
  congr_ok3 Instr.sgti (fieldXdI_packI ..) (fieldXs_packI ..) (immField_packI ..)
theorem EncodeDecode.slei (rd : RegNum) (rs : RegNum) (imm : Imm16) : EncodeDecode.Statement (.slei rd rs imm) :=
  decode_by_op (opField_packI ..) <|
  congr_ok3 Instr.slei (fieldXdI_packI ..) (fieldXs_packI ..) (immField_packI ..)
theorem EncodeDecode.sgei (rd : RegNum) (rs : RegNum) (imm : Imm16) : EncodeDecode.Statement (.sgei rd rs imm) :=
  decode_by_op (opField_packI ..) <|
  congr_ok3 Instr.sgei (fieldXdI_packI ..) (fieldXs_packI ..) (immField_packI ..)
theorem EncodeDecode.lb (rd : RegNum) (rs : RegNum) (imm : Imm16) : EncodeDecode.Statement (.lb rd rs imm) :=
  decode_by_op (opField_packI ..) <|
  congr_ok3 Instr.lb (fieldXdI_packI ..) (fieldXs_packI ..) (immField_packI ..)
theorem EncodeDecode.lh (rd : RegNum) (rs : RegNum) (imm : Imm16) : EncodeDecode.Statement (.lh rd rs imm) :=
  decode_by_op (opField_packI ..) <|
  congr_ok3 Instr.lh (fieldXdI_packI ..) (fieldXs_packI ..) (immField_packI ..)
theorem EncodeDecode.lw (rd : RegNum) (rs : RegNum) (imm : Imm16) : EncodeDecode.Statement (.lw rd rs imm) :=
  decode_by_op (opField_packI ..) <|
  congr_ok3 Instr.lw (fieldXdI_packI ..) (fieldXs_packI ..) (immField_packI ..)
theorem EncodeDecode.lbu (rd : RegNum) (rs : RegNum) (imm : Imm16) : EncodeDecode.Statement (.lbu rd rs imm) :=
  decode_by_op (opField_packI ..) <|
  congr_ok3 Instr.lbu (fieldXdI_packI ..) (fieldXs_packI ..) (immField_packI ..)
theorem EncodeDecode.lhu (rd : RegNum) (rs : RegNum) (imm : Imm16) : EncodeDecode.Statement (.lhu rd rs imm) :=
  decode_by_op (opField_packI ..) <|
  congr_ok3 Instr.lhu (fieldXdI_packI ..) (fieldXs_packI ..) (immField_packI ..)
theorem EncodeDecode.lf (fd : RegNum) (rs : RegNum) (imm : Imm16) : EncodeDecode.Statement (.lf fd rs imm) :=
  decode_by_op (opField_packI ..) <|
  congr_ok3 Instr.lf (fieldXdI_packI ..) (fieldXs_packI ..) (immField_packI ..)
theorem EncodeDecode.ld (dd : RegNum) (rs : RegNum) (imm : Imm16) : EncodeDecode.Statement (.ld dd rs imm) :=
  decode_by_op (opField_packI ..) <|
  congr_ok3 Instr.ld (fieldXdI_packI ..) (fieldXs_packI ..) (immField_packI ..)
theorem EncodeDecode.sb (rd : RegNum) (rs : RegNum) (imm : Imm16) : EncodeDecode.Statement (.sb rd rs imm) :=
  decode_by_op (opField_packI ..) <|
  congr_ok3 Instr.sb (fieldXdI_packI ..) (fieldXs_packI ..) (immField_packI ..)
theorem EncodeDecode.sh (rd : RegNum) (rs : RegNum) (imm : Imm16) : EncodeDecode.Statement (.sh rd rs imm) :=
  decode_by_op (opField_packI ..) <|
  congr_ok3 Instr.sh (fieldXdI_packI ..) (fieldXs_packI ..) (immField_packI ..)
theorem EncodeDecode.sw (rd : RegNum) (rs : RegNum) (imm : Imm16) : EncodeDecode.Statement (.sw rd rs imm) :=
  decode_by_op (opField_packI ..) <|
  congr_ok3 Instr.sw (fieldXdI_packI ..) (fieldXs_packI ..) (immField_packI ..)
theorem EncodeDecode.sf (fd : RegNum) (rs : RegNum) (imm : Imm16) : EncodeDecode.Statement (.sf fd rs imm) :=
  decode_by_op (opField_packI ..) <|
  congr_ok3 Instr.sf (fieldXdI_packI ..) (fieldXs_packI ..) (immField_packI ..)
theorem EncodeDecode.sd (dd : RegNum) (rs : RegNum) (imm : Imm16) : EncodeDecode.Statement (.sd dd rs imm) :=
  decode_by_op (opField_packI ..) <|
  congr_ok3 Instr.sd (fieldXdI_packI ..) (fieldXs_packI ..) (immField_packI ..)

end Sys2Proof.Laws
end

