-- ==== Sys2Proof/Laws/Results.lean ====
section
/-! SUPPORT. The updates the meanings end in, and what a claim calls their results. -/

namespace Sys2Proof.Machine

/-- Writing an integer register and going on. -/
theorem completes_writeR (s : State) (rd : RegNum) (v : Word) :
    Completes (.next (s.writeR rd v).advance) (IntResult s rd v) := by
  refine ⟨_, rfl, ⟨⟨fun i => ?_, fun i => ?_⟩, by simp [SameF], by simp [SameFpsr], by simp [SameSpecial],
    by simp [SameElsewhere, SameMemory, SameSystem], by simp⟩, by simp⟩
  · simpa using State.readR_writeR s rd i v
  · simpa using State.writeR_written s rd i v

/-- Writing a single register and going on. -/
theorem completes_writeF (s : State) (fd : RegNum) (v : Word) :
    Completes (.next (s.writeF fd v).advance) fun t => SingleWrite s fd v t ∧ t.draws = s.draws :=
  ⟨_, rfl, ⟨State.writesF_writeF s fd v, rfl, rfl, rfl, ⟨fun _ => rfl, rfl, rfl, rfl, rfl, rfl⟩, rfl⟩, rfl⟩

/-- Writing a double register and going on. -/
theorem completes_writePair (s : State) (p : Pair) (v : DWord) (h : p.hi ≠ p.lo) :
    Completes (.next (s.writePair p v).advance) fun t => DoubleWrite s p v t ∧ t.draws = s.draws :=
  ⟨_, rfl, ⟨State.writesPair_writePair s p v h, rfl, rfl, rfl, ⟨fun _ => rfl, rfl, rfl, rfl, rfl, rfl⟩, rfl⟩,
    rfl⟩

/-- Settling a single result, writing it and going on. -/
theorem completes_settleSingle (s : State) (fd : RegNum) (x : FpResult) :
    Completes (.next (s.putSingle fd x).advance) (SingleResult s fd x) := by
  cases x with
  | pattern v => exact completes_writeF s fd _
  | anyNan =>
    exact ⟨_, rfl, ⟨_, single_freeNan32 s.draws, State.writesF_writeF s fd _, rfl, rfl, rfl,
      ⟨fun _ => rfl, rfl, rfl, rfl, rfl, rfl⟩, rfl⟩, rfl⟩

/-- Settling a double result, writing it and going on. -/
theorem completes_settleDouble (s : State) (p : Pair) (x : FpResult) (h : p.hi ≠ p.lo) :
    Completes (.next (s.putDouble p x).advance) (DoubleResult s p x) := by
  cases x with
  | pattern v => exact completes_writePair s p _ h
  | anyNan =>
    exact ⟨_, rfl, ⟨_, double_freeNan64 s.draws, State.writesPair_writePair s p _ h, rfl, rfl, rfl,
      ⟨fun _ => rfl, rfl, rfl, rfl, rfl, rfl⟩, rfl⟩, rfl⟩

/-- Settling an integer result, writing it and going on. -/
theorem completes_settleInt (s : State) (rd : RegNum) (x : Option Word) :
    Completes (.next (s.putInt rd x).advance) (IntOrAnyResult s rd x) := by
  cases x with
  | some v => exact completes_writeR s rd v
  | none =>
    obtain ⟨t, ht, h, hd⟩ := completes_writeR s.drawn rd (Config.freeInt s.draws)
    exact ⟨t, ht, ⟨_, h⟩, hd⟩

/-- Writing fpsr and going on. -/
theorem completes_writeFpsr (s : State) (b : Bool) :
    Completes (.next (s.writeFpsr b).advance) (FpsrResult s b) :=
  ⟨_, rfl, rfl, rfl, rfl, rfl, ⟨fun _ => rfl, rfl, rfl, rfl, rfl, rfl⟩, rfl, rfl⟩

/-- Writing special and going on. -/
theorem completes_writeSpecial (s : State) (v : Word) :
    Completes (.next (s.writeSpecial v).advance) (SpecialResult s v) :=
  ⟨_, rfl, rfl, rfl, rfl, rfl, ⟨fun _ => rfl, rfl, rfl, rfl, rfl, rfl⟩, rfl, rfl⟩

/-- Going somewhere. -/
theorem completes_jumpTo (s : State) (a : Word) : Completes (.next (s.jumpTo a)) (TransferResult s a) :=
  ⟨_, rfl, rfl, rfl, rfl, rfl, ⟨fun _ => rfl, rfl, rfl, rfl, rfl, rfl⟩, rfl, rfl⟩

/-- Linking and going somewhere. -/
theorem completes_link (s : State) (link a : Word) :
    Completes (.next ((s.writeR 31 link).jumpTo a)) (LinkResult s link a) := by
  refine ⟨_, rfl, State.writesR_writeR s 31 link, by simp [SameF], by simp [SameFpsr], by simp [SameSpecial],
    by simp [SameElsewhere, SameMemory, SameSystem], by simp, rfl⟩

/-- Branching. -/
theorem completes_branch (s : State) (b : Bool) (imm : Imm16) :
    Completes (branch b imm s) (TransferResult s (if b then s.branchTarget imm else s.nextPc)) := by
  rw [branch_next.mpr rfl]
  exact completes_jumpTo s _

/-- Storing and going on. -/
theorem completes_memWrite (s : State) (a : Word) (n : Nat) (v : BitVec (8 * n)) (hw : s.mem.wf = true)
    (ha : a.toNat % n = 0) (hr : Params.InRange s.params a.toNat n) :
    Completes (withOperand (s.memWrite a n v) fun t => .next t.advance) (StoreResult s a n v) := by
  have h := State.memWrite_ok (v := v) |>.mpr ⟨⟨ha, hr⟩, rfl⟩
  rw [h]
  have hb := fun i hi => State.memWrite_byte (i := i) hw h hi
  refine ⟨_, rfl, hb, fun x hx => Memory.read_writeBE_outside _ _ hx, fun x => ?_, rfl, rfl, rfl, rfl,
    ⟨rfl, rfl, rfl, rfl⟩, rfl, rfl⟩
  simp only [State.advance_modified]
  cases s.params.allowSmc
  · simp only [Bool.false_eq_true, if_false, mem_addAddrs, true_and]
    exact or_comm
  · simp

end Sys2Proof.Machine
end

