-- ==== Sys2Proof/Tests/Slice0.lean ====
section
/-! SUPPORT. Tests: what the checks of well-formedness refuse, the words of the encoding tables, one step of
each instruction with operands and results of 95_test_vectors.md, and for every statement with hypotheses a
concrete state that meets them. -/

namespace Sys2Proof.Tests

set_option Elab.async false

open Sys2Proof.Machine

/-! ### Helpers -/

/-- The launch of 95_test_vectors.md: 0x1000 bytes from address 0. -/
def testParams : Params := { Config.defaults with memSize := 0x1000 }

/-- Reset, what is written before the step, pc 0x100, and the instruction there. -/
def testState (ws : List HostWrite) (word : Nat) : State :=
  State.withFetchWord { State.launch testParams ws with pc := 0x100 } 32 word

/-- One step makes these writes, leaves pc there and changes nothing else (`modified` is not looked at). -/
def writes (s : State) (ws : List HostWrite) (pc : Word) : Bool :=
  match step s with
  | .next t => decide ({ t with modified := [] } = { s.applyWrites ws with pc := pc })
  | _ => false

/-- One step answers this state. -/
def goesTo (s t : State) : Bool :=
  match step s with
  | .next u => decide (u = t)
  | _ => false

/-- One step raises this fault. -/
def stops (s : State) (k : Fault) : Bool :=
  match step s with
  | .fault e => decide (e = k)
  | _ => false

/-- The same state, launched with unwritten registers read as 10_state.md R14 says. -/
def underR14 (s : State) : State := { s with params := { s.params with unwritten := .faults } }

/-- Under R14 the step ends the run as `faulted(UnwrittenRead, A)`, nothing else changed. -/
def endsUnwritten (s : State) : Bool :=
  goesTo (underR14 s) { underR14 s with status := .faulted .unwrittenRead s.pc }

/-- It does so, and under the default launch parameter it goes on to this pc. -/
def readsUnwritten (s : State) (pc : Word) : Bool :=
  endsUnwritten s &&
    match step s with
    | .next t => decide (t.pc = pc)
    | _ => false

/-! ### Well-formedness: one ill-formed term for each check -/

/-- An odd field is no double register under `even_f_index`. -/
theorem test_wellFormed_odd_double : (Instr.movd 4 3).wellFormed .evenFIndex = false := by decide

/-- Each of three D operands is checked. -/
theorem test_wellFormed_each_double :
    (Instr.addd 1 2 4).wellFormed .evenFIndex = false ∧ (Instr.addd 2 1 4).wellFormed .evenFIndex = false ∧
    (Instr.addd 2 4 1).wellFormed .evenFIndex = false ∧ (Instr.addd 30 2 4).wellFormed .evenFIndex = true := by
  decide

/-- A field from 16 on is no double register under `d_index`. -/
theorem test_wellFormed_double_index :
    (Instr.ld 16 1 0).wellFormed .dIndex = false ∧ (Instr.ld 15 1 0).wellFormed .dIndex = true := by decide

/-- A shift amount from 32 on is not written by an assembler. -/
theorem test_wellFormed_shift :
    (Instr.slli 3 1 32).wellFormed .evenFIndex = false ∧ (Instr.srli 3 1 32).wellFormed .evenFIndex = false ∧
    (Instr.srai 3 1 0xFFFF).wellFormed .evenFIndex = false ∧
    (Instr.slli 3 1 31).wellFormed .evenFIndex = true := by decide

/-! ### The words of the encoding tables (30_encoding.md R60 and the examples of the instruction rules) -/

theorem test_decode_opcode_00 :
    decode 0x00221804 = .ok (.sll 3 1 2) ∧
    decode 0x00221806 = .ok (.srl 3 1 2) ∧
    decode 0x00221807 = .ok (.sra 3 1 2) ∧
    decode 0x00221820 = .ok (.add 3 1 2) ∧
    decode 0x00221821 = .ok (.addu 3 1 2) ∧
    decode 0x00221822 = .ok (.sub 3 1 2) ∧
    decode 0x00221823 = .ok (.subu 3 1 2) ∧
    decode 0x00221824 = .ok (.and 3 1 2) ∧
    decode 0x00221825 = .ok (.or 3 1 2) ∧
    decode 0x00221826 = .ok (.xor 3 1 2) ∧
    decode 0x00221828 = .ok (.seq 3 1 2) ∧
    decode 0x00221829 = .ok (.sne 3 1 2) ∧
    decode 0x0022182A = .ok (.slt 3 1 2) ∧
    decode 0x0022182B = .ok (.sgt 3 1 2) ∧
    decode 0x0022182C = .ok (.sle 3 1 2) ∧
    decode 0x0022182D = .ok (.sge 3 1 2) ∧
    decode 0x00200030 = .ok (.movi2s 1) ∧
    decode 0x00001831 = .ok (.movs2i 3) ∧
    decode 0x00201832 = .ok (.movf 3 1) ∧
    decode 0x00402033 = .ok (.movd 4 2) ∧
    decode 0x00201834 = .ok (.movfp2i 3 1) ∧
    decode 0x00201835 = .ok (.movi2fp 3 1) := by
  decide +kernel

theorem test_decode_opcode_01 :
    decode 0x04221800 = .ok (.addf 3 1 2) ∧
    decode 0x04221801 = .ok (.subf 3 1 2) ∧
    decode 0x04221802 = .ok (.multf 3 1 2) ∧
    decode 0x04223003 = .ok (.divf 6 1 2) ∧
    decode 0x05046004 = .ok (.addd 12 8 4) ∧
    decode 0x04443005 = .ok (.subd 6 2 4) ∧
    decode 0x04443006 = .ok (.multd 6 2 4) ∧
    decode 0x04443007 = .ok (.divd 6 2 4) ∧
    decode 0x04202008 = .ok (.cvtf2d 4 1) ∧
    decode 0x04201809 = .ok (.cvtf2i 3 1) ∧
    decode 0x0440180A = .ok (.cvtd2f 3 2) ∧
    decode 0x0580480B = .ok (.cvtd2i 9 12) ∧
    decode 0x0420180C = .ok (.cvti2f 3 1) ∧
    decode 0x0420200D = .ok (.cvti2d 4 1) ∧
    decode 0x0485300E = .ok (.mult 6 4 5) ∧
    decode 0x0422180F = .ok (.div 3 1 2) ∧
    decode 0x04220010 = .ok (.eqf 1 2) ∧
    decode 0x04220011 = .ok (.nef 1 2) ∧
    decode 0x04610012 = .ok (.ltf 3 1) ∧
    decode 0x04220013 = .ok (.gtf 1 2) ∧
    decode 0x04220014 = .ok (.lef 1 2) ∧
    decode 0x04220015 = .ok (.gef 1 2) ∧
    decode 0x04221816 = .ok (.multu 3 1 2) ∧
    decode 0x04221817 = .ok (.divu 3 1 2) ∧
    decode 0x04440018 = .ok (.eqd 2 4) ∧
    decode 0x04440019 = .ok (.ned 2 4) ∧
    decode 0x0444001A = .ok (.ltd 2 4) ∧
    decode 0x0444001B = .ok (.gtd 2 4) ∧
    decode 0x0444001C = .ok (.led 2 4) ∧
    decode 0x0584001D = .ok (.ged 12 4) := by
  decide +kernel

theorem test_decode_transfers_and_traps :
    decode 0x0BFFFFFC = .ok (.j (-4)) ∧
    decode 0x0C000040 = .ok (.jal 0x40) ∧
    decode 0x10207FFC = .ok (.beqz 1 0x7FFC) ∧
    decode 0x1420FFF0 = .ok (.bnez 1 (-16)) ∧
    decode 0x18000008 = .ok (.bfpt 8) ∧
    decode 0x1C000008 = .ok (.bfpf 8) ∧
    decode 0x40000000 = .ok .rfe ∧
    decode 0x47FFFFFF = .ok (.trap 0x3FFFFFF) ∧
    decode 0x4BE00000 = .ok (.jr 31) ∧
    decode 0x4FE00000 = .ok (.jalr 31) := by
  decide +kernel

theorem test_decode_immediates :
    decode 0x20E3FFFB = .ok (.addi 3 7 (-5)) ∧
    decode 0x2423FFFB = .ok (.addui 3 1 0xFFFB) ∧
    decode 0x2823FFFF = .ok (.subi 3 1 (-1)) ∧
    decode 0x2C23FFFF = .ok (.subui 3 1 0xFFFF) ∧
    decode 0x30238001 = .ok (.andi 3 1 0x8001) ∧
    decode 0x3441007B = .ok (.ori 1 2 0x7B) ∧
    decode 0x3823FFFF = .ok (.xori 3 1 0xFFFF) ∧
    decode 0x3C031234 = .ok (.lhi 3 0x1234) ∧
    decode 0x50230004 = .ok (.slli 3 1 4) ∧
    decode 0x58230004 = .ok (.srli 3 1 4) ∧
    decode 0x5C230004 = .ok (.srai 3 1 4) ∧
    decode 0x6023FFFF = .ok (.seqi 3 1 (-1)) ∧
    decode 0x6423FFFF = .ok (.snei 3 1 (-1)) ∧
    decode 0x68230000 = .ok (.slti 3 1 0) ∧
    decode 0x6C238000 = .ok (.sgti 3 1 (-32768)) ∧
    decode 0x70238000 = .ok (.slei 3 1 (-32768)) ∧
    decode 0x74237FFF = .ok (.sgei 3 1 0x7FFF) := by
  decide +kernel

theorem test_decode_memory :
    decode 0x8043FFFF = .ok (.lb 3 2 (-1)) ∧
    decode 0x84430002 = .ok (.lh 3 2 2) ∧
    decode 0x8C43FFFC = .ok (.lw 3 2 (-4)) ∧
    decode 0x90430001 = .ok (.lbu 3 2 1) ∧
    decode 0x94430002 = .ok (.lhu 3 2 2) ∧
    decode 0x98430000 = .ok (.lf 3 2 0) ∧
    decode 0x9C440000 = .ok (.ld 4 2 0) ∧
    decode 0xA0450003 = .ok (.sb 5 2 3) ∧
    decode 0xA4450002 = .ok (.sh 5 2 2) ∧
    decode 0xEC450004 = .ok (.sw 5 2 4) ∧
    decode 0xF8440000 = .ok (.sf 4 2 0) ∧
    decode 0xFC440000 = .ok (.sd 4 2 0) := by
  decide +kernel

/-- Unused bits are ignored (30_encoding.md R61; 95_test_vectors.md). -/
theorem test_decode_ignores_unused :
    decode 0x43FFFFFF = .ok .rfe ∧ decode 0x0422F812 = .ok (.ltf 1 2) := by decide +kernel

/-- Reserved words (30_encoding.md R66; 95_test_vectors.md). -/
theorem test_decode_reserved :
    ([0x00000000, 0x00000005, 0x00000027, 0x00221FE0, 0x0400001E, 0x040007FF, 0x54000000, 0xAC000000,
      0x88000000] : List Word).all (fun w => (decode w).toOption.isNone) = true := by decide +kernel

/-- The host's entry: the table's bits are the word, and it decodes to the row. -/
theorem test_decodeTableWord :
    decodeTableWord 32 0x00000020 = some (.add 0 0 0) ∧ decodeTableWord 32 0x00000027 = none := by
  decide +kernel

/-! ### One step of each instruction (95_test_vectors.md) -/

/-- `SLL R3, R1, R2`. -/
theorem test_sll :
    writes (testState [.intReg 1 0x00000001, .intReg 2 0xFFFFFFFF] 0x00221804) [.intReg 3 0x80000000] 0x00000104
      = true := by
  decide +kernel

/-- `SRL R3, R1, R2`. -/
theorem test_srl :
    writes (testState [.intReg 1 0x80000000, .intReg 2 0x00000020] 0x00221806) [.intReg 3 0x80000000] 0x00000104
      = true := by
  decide +kernel

/-- `SRA R3, R1, R2`. -/
theorem test_sra :
    writes (testState [.intReg 1 0x7FFFFFFF, .intReg 2 0x00000004] 0x00221807) [.intReg 3 0x07FFFFFF] 0x00000104
      = true := by
  decide +kernel

/-- `ADD R3, R1, R2`. -/
theorem test_add :
    writes (testState [.intReg 1 0x7FFFFFFF, .intReg 2 0x00000001] 0x00221820) [.intReg 3 0x80000000] 0x00000104
      = true := by
  decide +kernel

/-- `ADD R3, R1, R2`. -/
theorem test_add_unwritten :
    readsUnwritten (testState [.intReg 1 0x00000001] 0x00221820) 0x104 = true := by
  decide +kernel

/-- `ADDU R3, R1, R2`. -/
theorem test_addu :
    writes (testState [.intReg 1 0xFFFFFFFF, .intReg 2 0x00000001] 0x00221821) [.intReg 3 0x00000000] 0x00000104
      = true := by
  decide +kernel

/-- `SUB R3, R1, R2`. -/
theorem test_sub :
    writes (testState [.intReg 1 0x80000000, .intReg 2 0x00000001] 0x00221822) [.intReg 3 0x7FFFFFFF] 0x00000104
      = true := by
  decide +kernel

/-- `SUBU R3, R1, R2`. -/
theorem test_subu :
    writes (testState [.intReg 1 0x00000000, .intReg 2 0x00000001] 0x00221823) [.intReg 3 0xFFFFFFFF] 0x00000104
      = true := by
  decide +kernel

/-- `AND R3, R1, R2`. -/
theorem test_and :
    writes (testState [.intReg 1 0xFF00FF00, .intReg 2 0x0FF00FF0] 0x00221824) [.intReg 3 0x0F000F00] 0x00000104
      = true := by
  decide +kernel

/-- `OR R3, R1, R2`. -/
theorem test_or :
    writes (testState [.intReg 1 0xFF00FF00, .intReg 2 0x0FF00FF0] 0x00221825) [.intReg 3 0xFFF0FFF0] 0x00000104
      = true := by
  decide +kernel

/-- `XOR R3, R1, R2`. -/
theorem test_xor :
    writes (testState [.intReg 1 0xFF00FF00, .intReg 2 0x0FF00FF0] 0x00221826) [.intReg 3 0xF0F0F0F0] 0x00000104
      = true := by
  decide +kernel

/-- `SEQ R3, R1, R2`. -/
theorem test_seq :
    writes (testState [.intReg 1 0x00000005, .intReg 2 0x00000005] 0x00221828) [.intReg 3 0x00000001] 0x00000104
      = true := by
  decide +kernel

/-- `SNE R3, R1, R2`. -/
theorem test_sne :
    writes (testState [.intReg 1 0x00000005, .intReg 2 0x00000005] 0x00221829) [.intReg 3 0x00000000] 0x00000104
      = true := by
  decide +kernel

/-- `SLT R3, R1, R2`. -/
theorem test_slt :
    writes (testState [.intReg 1 0xFFFFFFFF, .intReg 2 0x00000001] 0x0022182A) [.intReg 3 0x00000001] 0x00000104
      = true := by
  decide +kernel

/-- `SGT R3, R1, R2`. -/
theorem test_sgt :
    writes (testState [.intReg 1 0xFFFFFFFF, .intReg 2 0x00000001] 0x0022182B) [.intReg 3 0x00000000] 0x00000104
      = true := by
  decide +kernel

/-- `SLE R3, R1, R2`. -/
theorem test_sle :
    writes (testState [.intReg 1 0x80000000, .intReg 2 0x7FFFFFFF] 0x0022182C) [.intReg 3 0x00000001] 0x00000104
      = true := by
  decide +kernel

/-- `SGE R3, R1, R2`. -/
theorem test_sge :
    writes (testState [.intReg 1 0x80000000, .intReg 2 0x7FFFFFFF] 0x0022182D) [.intReg 3 0x00000000] 0x00000104
      = true := by
  decide +kernel

/-- `MOVI2S R1`. -/
theorem test_movi2s :
    writes (testState [.intReg 1 0xCAFEF00D] 0x00200030) [.special 0xCAFEF00D] 0x00000104 = true := by
  decide +kernel

/-- `MOVS2I R3`. -/
theorem test_movs2i :
    writes (testState [.special 0xCAFEF00D] 0x00001831) [.intReg 3 0xCAFEF00D] 0x00000104 = true := by
  decide +kernel

/-- `MOVS2I R3`. -/
theorem test_movs2i_unwritten :
    readsUnwritten (testState [] 0x00001831) 0x104 = true := by
  decide +kernel

/-- `MOVF F3, F1`. -/
theorem test_movf :
    writes (testState [.fpReg 1 0x7FC00001] 0x00201832) [.fpReg 3 0x7FC00001] 0x00000104 = true := by
  decide +kernel

/-- `MOVD D2, D1`. -/
theorem test_movd :
    writes (testState [.fpReg 2 0x400921FB, .fpReg 3 0x54442D18] 0x00402033) [.fpReg 4 0x400921FB, .fpReg 5
      0x54442D18] 0x00000104 = true := by
  decide +kernel

/-- `MOVD D2, D1`. -/
theorem test_movd_unwritten :
    readsUnwritten (testState [.fpReg 2 0x400921FB] 0x00402033) 0x104 = true := by
  decide +kernel

/-- `MOVFP2I R3, F1`. -/
theorem test_movfp2i :
    writes (testState [.fpReg 1 0xBF800000] 0x00201834) [.intReg 3 0xBF800000] 0x00000104 = true := by
  decide +kernel

/-- `MOVI2FP F3, R1`. -/
theorem test_movi2fp :
    writes (testState [.intReg 1 0x3F800000] 0x00201835) [.fpReg 3 0x3F800000] 0x00000104 = true := by
  decide +kernel

/-- `ADDF F3, F1, F2`. -/
theorem test_addf :
    writes (testState [.fpReg 1 0x3F800000, .fpReg 2 0x34000000] 0x04221800) [.fpReg 3 0x3F800001] 0x00000104 =
      true := by
  decide +kernel

/-- `SUBF F3, F1, F2`. -/
theorem test_subf :
    writes (testState [.fpReg 1 0x3FC00000, .fpReg 2 0x40100000] 0x04221801) [.fpReg 3 0xBF400000] 0x00000104 =
      true := by
  decide +kernel

/-- `MULTF F3, F1, F2`. -/
theorem test_multf :
    writes (testState [.fpReg 1 0x3FC00000, .fpReg 2 0x40100000] 0x04221802) [.fpReg 3 0x40580000] 0x00000104 =
      true := by
  decide +kernel

/-- `DIVF F3, F1, F2`. -/
theorem test_divf :
    writes (testState [.fpReg 1 0x3F800000, .fpReg 2 0x00000000] 0x04221803) [.fpReg 3 0x7F800000] 0x00000104 =
      true := by
  decide +kernel

/-- `ADDD D3, D1, D2`. -/
theorem test_addd :
    writes (testState [.fpReg 2 0x3FF80000, .fpReg 3 0x00000000, .fpReg 4 0x40020000, .fpReg 5 0x00000000]
      0x04443004) [.fpReg 6 0x400E0000, .fpReg 7 0x00000000] 0x00000104 = true := by
  decide +kernel

/-- `SUBD D3, D1, D2`. -/
theorem test_subd :
    writes (testState [.fpReg 2 0x3FF80000, .fpReg 3 0x00000000, .fpReg 4 0x40020000, .fpReg 5 0x00000000]
      0x04443005) [.fpReg 6 0xBFE80000, .fpReg 7 0x00000000] 0x00000104 = true := by
  decide +kernel

/-- `MULTD D3, D1, D2`. -/
theorem test_multd :
    writes (testState [.fpReg 2 0x3FF80000, .fpReg 3 0x00000000, .fpReg 4 0x40020000, .fpReg 5 0x00000000]
      0x04443006) [.fpReg 6 0x400B0000, .fpReg 7 0x00000000] 0x00000104 = true := by
  decide +kernel

/-- `DIVD D3, D1, D2`. -/
theorem test_divd :
    writes (testState [.fpReg 2 0x3FF00000, .fpReg 3 0x00000000, .fpReg 4 0x40080000, .fpReg 5 0x00000000]
      0x04443007) [.fpReg 6 0x3FD55555, .fpReg 7 0x55555555] 0x00000104 = true := by
  decide +kernel

/-- `CVTF2D D2, F1`. -/
theorem test_cvtf2d :
    writes (testState [.fpReg 1 0x3DCCCCCD] 0x04202008) [.fpReg 4 0x3FB99999, .fpReg 5 0xA0000000] 0x00000104 =
      true := by
  decide +kernel

/-- `CVTF2I R3, F1`. -/
theorem test_cvtf2i :
    writes (testState [.fpReg 1 0xC0733333] 0x04201809) [.intReg 3 0xFFFFFFFD] 0x00000104 = true := by
  decide +kernel

/-- `CVTD2F F3, D1`. -/
theorem test_cvtd2f :
    writes (testState [.fpReg 2 0x3FB99999, .fpReg 3 0x9999999A] 0x0440180A) [.fpReg 3 0x3DCCCCCD] 0x00000104 =
      true := by
  decide +kernel

/-- `CVTD2I R3, D1`. -/
theorem test_cvtd2i :
    writes (testState [.fpReg 2 0xC1E00000, .fpReg 3 0x00000000] 0x0440180B) [.intReg 3 0x80000000] 0x00000104 =
      true := by
  decide +kernel

/-- `CVTI2F F3, R1`. -/
theorem test_cvti2f :
    writes (testState [.intReg 1 0x01000001] 0x0420180C) [.fpReg 3 0x4B800000] 0x00000104 = true := by
  decide +kernel

/-- `CVTI2D D2, R1`. -/
theorem test_cvti2d :
    writes (testState [.intReg 1 0x80000000] 0x0420200D) [.fpReg 4 0xC1E00000, .fpReg 5 0x00000000] 0x00000104 =
      true := by
  decide +kernel

/-- `MULT R3, R1, R2`. -/
theorem test_mult :
    writes (testState [.intReg 1 0x00010000, .intReg 2 0x00010000] 0x0422180E) [.intReg 3 0x00000000] 0x00000104
      = true := by
  decide +kernel

/-- `DIV R3, R1, R2`. -/
theorem test_div :
    writes (testState [.intReg 1 0x80000000, .intReg 2 0xFFFFFFFF] 0x0422180F) [.intReg 3 0x80000000] 0x00000104
      = true := by
  decide +kernel

/-- `DIV R3, R1, R2`. -/
theorem test_div_zero_divisor :
    stops (testState [.intReg 1 0x00000007, .intReg 2 0x00000000] 0x0422180F) .divideByZero = true := by
  decide +kernel

/-- `EQF F1, F2`. -/
theorem test_eqf :
    writes (testState [.fpReg 1 0x7FC00000, .fpReg 2 0x7FC00000] 0x04220010) [.fpsr false] 0x00000104 = true :=
      by
  decide +kernel

/-- `NEF F1, F2`. -/
theorem test_nef :
    writes (testState [.fpReg 1 0x7FC00000, .fpReg 2 0x3F800000] 0x04220011) [.fpsr true] 0x00000104 = true := by
  decide +kernel

/-- `LTF F1, F2`. -/
theorem test_ltf :
    writes (testState [.fpReg 1 0xBF800000, .fpReg 2 0x3F800000] 0x04220012) [.fpsr true] 0x00000104 = true := by
  decide +kernel

/-- `GTF F1, F2`. -/
theorem test_gtf :
    writes (testState [.fpReg 1 0xBF800000, .fpReg 2 0x3F800000] 0x04220013) [.fpsr false] 0x00000104 = true :=
      by
  decide +kernel

/-- `LEF F1, F2`. -/
theorem test_lef :
    writes (testState [.fpReg 1 0x7FC00000, .fpReg 2 0x3F800000, .fpsr true] 0x04220014) [.fpsr false] 0x00000104
      = true := by
  decide +kernel

/-- `GEF F1, F2`. -/
theorem test_gef :
    writes (testState [.fpReg 1 0xFF800000, .fpReg 2 0x7F800000] 0x04220015) [.fpsr false] 0x00000104 = true :=
      by
  decide +kernel

/-- `MULTU R3, R1, R2`. -/
theorem test_multu :
    writes (testState [.intReg 1 0xFFFFFFFF, .intReg 2 0xFFFFFFFF] 0x04221816) [.intReg 3 0x00000001] 0x00000104
      = true := by
  decide +kernel

/-- `DIVU R3, R1, R2`. -/
theorem test_divu :
    writes (testState [.intReg 1 0xFFFFFFF9, .intReg 2 0x00000002] 0x04221817) [.intReg 3 0x7FFFFFFC] 0x00000104
      = true := by
  decide +kernel

/-- `DIVU R3, R1, R0`. -/
theorem test_divu_zero_divisor :
    stops (testState [.intReg 1 0x00000001] 0x04201817) .divideByZero = true := by
  decide +kernel

/-- `EQD D1, D2`. -/
theorem test_eqd :
    writes (testState [.fpReg 2 0x3FF00000, .fpReg 3 0x00000000, .fpReg 4 0x3FF00000, .fpReg 5 0x00000000]
      0x04440018) [.fpsr true] 0x00000104 = true := by
  decide +kernel

/-- `NED D1, D2`. -/
theorem test_ned :
    writes (testState [.fpReg 2 0x3FF00000, .fpReg 3 0x00000000, .fpReg 4 0x3FF00000, .fpReg 5 0x00000001]
      0x04440019) [.fpsr true] 0x00000104 = true := by
  decide +kernel

/-- `LTD D1, D2`. -/
theorem test_ltd :
    writes (testState [.fpReg 2 0x3FF00000, .fpReg 3 0x00000000, .fpReg 4 0x3FF00000, .fpReg 5 0x00000001]
      0x0444001A) [.fpsr true] 0x00000104 = true := by
  decide +kernel

/-- `GTD D1, D2`. -/
theorem test_gtd :
    writes (testState [.fpReg 2 0x3FF00000, .fpReg 3 0x00000000, .fpReg 4 0x3FF00000, .fpReg 5 0x00000001]
      0x0444001B) [.fpsr false] 0x00000104 = true := by
  decide +kernel

/-- `LED D1, D2`. -/
theorem test_led :
    writes (testState [.fpReg 2 0xC0000000, .fpReg 3 0x00000000, .fpReg 4 0xBFF00000, .fpReg 5 0x00000000]
      0x0444001C) [.fpsr true] 0x00000104 = true := by
  decide +kernel

/-- `GED D1, D2`. -/
theorem test_ged :
    writes (testState [.fpReg 2 0xC0000000, .fpReg 3 0x00000000, .fpReg 4 0xBFF00000, .fpReg 5 0x00000000]
      0x0444001D) [.fpsr false] 0x00000104 = true := by
  decide +kernel

/-- `J #0x40`. -/
theorem test_j :
    writes (testState [] 0x08000040) [] 0x00000144 = true := by
  decide +kernel

/-- `JAL #0x40`. -/
theorem test_jal :
    writes (testState [] 0x0C000040) [.intReg 31 0x00000108] 0x00000144 = true := by
  decide +kernel

/-- `BEQZ R1, #16`. -/
theorem test_beqz :
    writes (testState [.intReg 1 0x00000001] 0x10200010) [] 0x00000104 = true := by
  decide +kernel

/-- `BNEZ R1, #-16`. -/
theorem test_bnez :
    writes (testState [.intReg 1 0x80000000] 0x1420FFF0) [] 0x000000F4 = true := by
  decide +kernel

/-- `BFPT #8`. -/
theorem test_bfpt :
    writes (testState [.fpsr false] 0x18000008) [] 0x00000104 = true := by
  decide +kernel

/-- `BFPF #8`. -/
theorem test_bfpf :
    writes (testState [.fpsr false] 0x1C000008) [] 0x0000010C = true := by
  decide +kernel

/-- `BFPF #8`. -/
theorem test_bfpf_unwritten :
    readsUnwritten (testState [] 0x1C000008) 0x10C = true := by
  decide +kernel

/-- `ADDI R3, R1, #1`. -/
theorem test_addi :
    writes (testState [.intReg 1 0x7FFFFFFF] 0x20230001) [.intReg 3 0x80000000] 0x00000104 = true := by
  decide +kernel

/-- `ADDI R3, R1, #1`. -/
theorem test_addi_unwritten :
    readsUnwritten (testState [] 0x20230001) 0x104 = true := by
  decide +kernel

/-- `ADDUI R3, R1, #0xFFFB`. -/
theorem test_addui :
    writes (testState [.intReg 1 0x0000000A] 0x2423FFFB) [.intReg 3 0x00010005] 0x00000104 = true := by
  decide +kernel

/-- `SUBI R3, R1, #-1`. -/
theorem test_subi :
    writes (testState [.intReg 1 0x00000000] 0x2823FFFF) [.intReg 3 0x00000001] 0x00000104 = true := by
  decide +kernel

/-- `SUBUI R3, R1, #0xFFFF`. -/
theorem test_subui :
    writes (testState [.intReg 1 0x00000000] 0x2C23FFFF) [.intReg 3 0xFFFF0001] 0x00000104 = true := by
  decide +kernel

/-- `ANDI R3, R1, #0x8001`. -/
theorem test_andi :
    writes (testState [.intReg 1 0xFFFFFFFF] 0x30238001) [.intReg 3 0x00008001] 0x00000104 = true := by
  decide +kernel

/-- `ORI R3, R1, #0x8001`. -/
theorem test_ori :
    writes (testState [.intReg 1 0x12340000] 0x34238001) [.intReg 3 0x12348001] 0x00000104 = true := by
  decide +kernel

/-- `XORI R3, R1, #0xFFFF`. -/
theorem test_xori :
    writes (testState [.intReg 1 0xFFFFFFFF] 0x3823FFFF) [.intReg 3 0xFFFF0000] 0x00000104 = true := by
  decide +kernel

/-- `LHI R3, #0xFFFF`. -/
theorem test_lhi :
    writes (testState [] 0x3C03FFFF) [.intReg 3 0xFFFF0000] 0x00000104 = true := by
  decide +kernel

/-- `JR R1`. -/
theorem test_jr :
    writes (testState [.intReg 1 0x00000200] 0x48200000) [] 0x00000200 = true := by
  decide +kernel

/-- `JALR R31`. -/
theorem test_jalr :
    writes (testState [.intReg 31 0x00000300] 0x4FE00000) [.intReg 31 0x00000108] 0x00000300 = true := by
  decide +kernel

/-- `SLLI R3, R1, #4`. -/
theorem test_slli :
    writes (testState [.intReg 1 0xF000000F] 0x50230004) [.intReg 3 0x000000F0] 0x00000104 = true := by
  decide +kernel

/-- `SRLI R3, R1, #4`. -/
theorem test_srli :
    writes (testState [.intReg 1 0xF000000F] 0x58230004) [.intReg 3 0x0F000000] 0x00000104 = true := by
  decide +kernel

/-- `SRAI R3, R1, #4`. -/
theorem test_srai :
    writes (testState [.intReg 1 0xF000000F] 0x5C230004) [.intReg 3 0xFF000000] 0x00000104 = true := by
  decide +kernel

/-- `SEQI R3, R1, #-1`. -/
theorem test_seqi :
    writes (testState [.intReg 1 0xFFFFFFFF] 0x6023FFFF) [.intReg 3 0x00000001] 0x00000104 = true := by
  decide +kernel

/-- `SNEI R3, R1, #-1`. -/
theorem test_snei :
    writes (testState [.intReg 1 0x0000FFFF] 0x6423FFFF) [.intReg 3 0x00000001] 0x00000104 = true := by
  decide +kernel

/-- `SLTI R3, R1, #0`. -/
theorem test_slti :
    writes (testState [.intReg 1 0x80000000] 0x68230000) [.intReg 3 0x00000001] 0x00000104 = true := by
  decide +kernel

/-- `SGTI R3, R1, #-32768`. -/
theorem test_sgti :
    writes (testState [.intReg 1 0xFFFF8000] 0x6C238000) [.intReg 3 0x00000000] 0x00000104 = true := by
  decide +kernel

/-- `SLEI R3, R1, #-32768`. -/
theorem test_slei :
    writes (testState [.intReg 1 0xFFFF8000] 0x70238000) [.intReg 3 0x00000001] 0x00000104 = true := by
  decide +kernel

/-- `SGEI R3, R1, #32767`. -/
theorem test_sgei :
    writes (testState [.intReg 1 0x00007FFE] 0x74237FFF) [.intReg 3 0x00000000] 0x00000104 = true := by
  decide +kernel

/-- `LB R3, -1(R2)`. -/
theorem test_lb :
    writes (testState [.intReg 2 0x00001000, .byte 0xFFF 0x5A] 0x8043FFFF) [.intReg 3 0x0000005A] 0x00000104 =
      true := by
  decide +kernel

/-- `LB R3, 0(R2)`. -/
theorem test_lb_out_of_range :
    stops (testState [.intReg 2 0x00001000] 0x80430000) .dataOutOfRange = true := by
  decide +kernel

/-- `LH R3, 2(R2)`. -/
theorem test_lh :
    writes (testState [.intReg 2 0x00000200, .byte 0x200 0x80, .byte 0x201 0x91, .byte 0x202 0xA2, .byte 0x203
      0xB3, .byte 0x204 0xC4, .byte 0x205 0xD5, .byte 0x206 0xE6, .byte 0x207 0xF7] 0x84430002) [.intReg 3
      0xFFFFA2B3] 0x00000104 = true := by
  decide +kernel

/-- `LH R3, 1(R2)`. -/
theorem test_lh_misaligned :
    stops (testState [.intReg 2 0x00000200, .byte 0x200 0x80, .byte 0x201 0x91, .byte 0x202 0xA2, .byte 0x203
      0xB3, .byte 0x204 0xC4, .byte 0x205 0xD5, .byte 0x206 0xE6, .byte 0x207 0xF7] 0x84430001) .dataMisaligned =
      true := by
  decide +kernel

/-- `LW R3, 4(R2)`. -/
theorem test_lw :
    writes (testState [.intReg 2 0x00000200, .byte 0x200 0x80, .byte 0x201 0x91, .byte 0x202 0xA2, .byte 0x203
      0xB3, .byte 0x204 0xC4, .byte 0x205 0xD5, .byte 0x206 0xE6, .byte 0x207 0xF7] 0x8C430004) [.intReg 3
      0xC4D5E6F7] 0x00000104 = true := by
  decide +kernel

/-- `LW R3, 2(R2)`. -/
theorem test_lw_misaligned :
    stops (testState [.intReg 2 0x00000200, .byte 0x200 0x80, .byte 0x201 0x91, .byte 0x202 0xA2, .byte 0x203
      0xB3, .byte 0x204 0xC4, .byte 0x205 0xD5, .byte 0x206 0xE6, .byte 0x207 0xF7] 0x8C430002) .dataMisaligned =
      true := by
  decide +kernel

/-- `LBU R3, 1(R2)`. -/
theorem test_lbu :
    writes (testState [.intReg 2 0x00000200, .byte 0x200 0x80, .byte 0x201 0x91, .byte 0x202 0xA2, .byte 0x203
      0xB3, .byte 0x204 0xC4, .byte 0x205 0xD5, .byte 0x206 0xE6, .byte 0x207 0xF7] 0x90430001) [.intReg 3
      0x00000091] 0x00000104 = true := by
  decide +kernel

/-- `LHU R3, 2(R2)`. -/
theorem test_lhu :
    writes (testState [.intReg 2 0x00000200, .byte 0x200 0x80, .byte 0x201 0x91, .byte 0x202 0xA2, .byte 0x203
      0xB3, .byte 0x204 0xC4, .byte 0x205 0xD5, .byte 0x206 0xE6, .byte 0x207 0xF7] 0x94430002) [.intReg 3
      0x0000A2B3] 0x00000104 = true := by
  decide +kernel

/-- `LF F3, 0(R2)`. -/
theorem test_lf :
    writes (testState [.intReg 2 0x00000200, .byte 0x200 0x80, .byte 0x201 0x91, .byte 0x202 0xA2, .byte 0x203
      0xB3, .byte 0x204 0xC4, .byte 0x205 0xD5, .byte 0x206 0xE6, .byte 0x207 0xF7] 0x98430000) [.fpReg 3
      0x8091A2B3] 0x00000104 = true := by
  decide +kernel

/-- `LD D2, 0(R2)`. -/
theorem test_ld :
    writes (testState [.intReg 2 0x00000200, .byte 0x200 0x80, .byte 0x201 0x91, .byte 0x202 0xA2, .byte 0x203
      0xB3, .byte 0x204 0xC4, .byte 0x205 0xD5, .byte 0x206 0xE6, .byte 0x207 0xF7] 0x9C440000) [.fpReg 4
      0x8091A2B3, .fpReg 5 0xC4D5E6F7] 0x00000104 = true := by
  decide +kernel

/-- `LD D2, 4(R2)`. -/
theorem test_ld_misaligned :
    stops (testState [.intReg 2 0x00000200, .byte 0x200 0x80, .byte 0x201 0x91, .byte 0x202 0xA2, .byte 0x203
      0xB3, .byte 0x204 0xC4, .byte 0x205 0xD5, .byte 0x206 0xE6, .byte 0x207 0xF7] 0x9C440004) .dataMisaligned =
      true := by
  decide +kernel

/-- `SB 3(R2), R5`. -/
theorem test_sb :
    writes (testState [.intReg 2 0x00000200, .intReg 5 0x11223344, .byte 0x200 0xEE, .byte 0x201 0xEE, .byte
      0x202 0xEE, .byte 0x203 0xEE, .byte 0x204 0xEE, .byte 0x205 0xEE, .byte 0x206 0xEE, .byte 0x207 0xEE]
      0xA0450003) [.byte 0x200 0xEE, .byte 0x201 0xEE, .byte 0x202 0xEE, .byte 0x203 0x44, .byte 0x204 0xEE,
      .byte 0x205 0xEE, .byte 0x206 0xEE, .byte 0x207 0xEE] 0x00000104 = true := by
  decide +kernel

/-- `SH 2(R2), R5`. -/
theorem test_sh :
    writes (testState [.intReg 2 0x00000200, .intReg 5 0x11223344, .byte 0x200 0xEE, .byte 0x201 0xEE, .byte
      0x202 0xEE, .byte 0x203 0xEE, .byte 0x204 0xEE, .byte 0x205 0xEE, .byte 0x206 0xEE, .byte 0x207 0xEE]
      0xA4450002) [.byte 0x200 0xEE, .byte 0x201 0xEE, .byte 0x202 0x33, .byte 0x203 0x44, .byte 0x204 0xEE,
      .byte 0x205 0xEE, .byte 0x206 0xEE, .byte 0x207 0xEE] 0x00000104 = true := by
  decide +kernel

/-- `SW 4(R2), R5`. -/
theorem test_sw :
    writes (testState [.intReg 2 0x00000200, .intReg 5 0x11223344, .byte 0x200 0xEE, .byte 0x201 0xEE, .byte
      0x202 0xEE, .byte 0x203 0xEE, .byte 0x204 0xEE, .byte 0x205 0xEE, .byte 0x206 0xEE, .byte 0x207 0xEE]
      0xEC450004) [.byte 0x200 0xEE, .byte 0x201 0xEE, .byte 0x202 0xEE, .byte 0x203 0xEE, .byte 0x204 0x11,
      .byte 0x205 0x22, .byte 0x206 0x33, .byte 0x207 0x44] 0x00000104 = true := by
  decide +kernel

/-- `SW 2(R2), R5`. -/
theorem test_sw_misaligned :
    stops (testState [.intReg 2 0x00000200, .intReg 5 0x00000001] 0xEC450002) .dataMisaligned = true := by
  decide +kernel

/-- `SF 0(R2), F4`. -/
theorem test_sf :
    writes (testState [.intReg 2 0x00000200, .fpReg 4 0x3FF80000, .byte 0x200 0xEE, .byte 0x201 0xEE, .byte 0x202
      0xEE, .byte 0x203 0xEE, .byte 0x204 0xEE, .byte 0x205 0xEE, .byte 0x206 0xEE, .byte 0x207 0xEE] 0xF8440000)
      [.byte 0x200 0x3F, .byte 0x201 0xF8, .byte 0x202 0x00, .byte 0x203 0x00, .byte 0x204 0xEE, .byte 0x205
      0xEE, .byte 0x206 0xEE, .byte 0x207 0xEE] 0x00000104 = true := by
  decide +kernel

/-- `SD 0(R2), D2`. -/
theorem test_sd :
    writes (testState [.intReg 2 0x00000200, .fpReg 4 0x3FF80000, .fpReg 5 0x00000001, .byte 0x200 0xEE, .byte
      0x201 0xEE, .byte 0x202 0xEE, .byte 0x203 0xEE, .byte 0x204 0xEE, .byte 0x205 0xEE, .byte 0x206 0xEE, .byte
      0x207 0xEE] 0xFC440000) [.byte 0x200 0x3F, .byte 0x201 0xF8, .byte 0x202 0x00, .byte 0x203 0x00, .byte
      0x204 0x00, .byte 0x205 0x00, .byte 0x206 0x00, .byte 0x207 0x01] 0x00000104 = true := by
  decide +kernel

/-- `SD 0(R2), D2`. -/
theorem test_sd_unwritten :
    readsUnwritten (testState [.intReg 2 0x00000200, .fpReg 4 0x3FF80000] 0xFC440000) 0x104 = true := by
  decide +kernel

/-! ### Trap, return, fetch (95_test_vectors.md) -/

/-- `TRAP #0` under the default service ends the run. -/
theorem test_trap_halts :
    goesTo (testState [] 0x44000000)
      { testState [] 0x44000000 with
        pc := 0x104, saved := some 0x104, status := .halted 0, served := 1 } = true := by
  decide +kernel

/-- `TRAP #5` under a service that always resumes: its writes, and on after the TRAP (60_exceptions.md R301). -/
theorem test_trap_resumes :
    let ws : List HostWrite := [.intReg 1 9, .intReg 0 1, .byte 0xFFF 0x5A]
    let s := { testState [] 0x44000005 with
      params := { testParams with trapService := .script [.halt] (.resume ws) }, served := 7 }
    goesTo s { s.applyWrites ws with pc := 0x104, served := 8 } = true := by decide +kernel

/-- `TRAP #5` in vectored mode. -/
theorem test_trap_vectored :
    let s := { testState [] 0x44000005 with
      params := { testParams with trapMode := .vectored ⟨[(5, 0x850)], 0⟩ } }
    goesTo s { s with pc := 0x850, saved := some 0x104 } = true := by decide +kernel

/-- `TRAP #5` while a resume address is saved. -/
theorem test_trap_nested :
    stops { testState [] 0x44000005 with saved := some 0x104 } .nestedTrap = true := by decide +kernel

/-- `RFE` with unused bits set. -/
theorem test_rfe :
    let s := { testState [] 0x43FFFFFF with saved := some 0x104 }
    goesTo s { s with pc := 0x104, saved := none } = true := by decide +kernel

/-- `RFE` with nothing saved. -/
theorem test_rfe_nothing_saved : stops (testState [] 0x40000000) .rfeNoSavedState = true := by decide +kernel

/-- A fetch at a misaligned pc, and one past the end of memory. -/
theorem test_fetch_faults :
    stops { testState [] 0x20010001 with pc := 0x102 } .fetchMisaligned = true ∧
    stops { testState [] 0x20010001 with pc := 0x1000 } .fetchOutOfRange = true := by decide +kernel

/-- A stored word is not fetched, unless `ALLOW_SMC` (20_memory.md R45). -/
theorem test_fetch_modified :
    stops { testState [] 0x40000000 with modified := [0x103] } .fetchModified = true ∧
    stops { testState [] 0x40000000 with
      modified := [0x103], params := { testParams with allowSmc := true } } .rfeNoSavedState = true := by
  decide +kernel

/-- `JAL` with `LINK_DELTA = 0`. -/
theorem test_jal_link_zero :
    writes { testState [] 0x0C000040 with params := { testParams with linkDelta := .zero } }
      [.intReg 31 0x104] 0x144 = true := by decide +kernel

/-- 0.0 over 0.0 draws a free NaN (42_fp_arith_convert.md R131 (a)). -/
theorem test_divf_invalid : fpDiv32 0x00000000 0x80000000 = .anyNan ∧ fpF2I 0x4F000000 = none := by
  decide +kernel

/-! ### The assembler (30_encoding.md section 6) -/

/-- Labels become offsets from the next instruction; comments and blank lines count for nothing. -/
theorem test_assemble :
    assemble .evenFIndex 0 (["loop:", "  LW  R1, -4(R2)  ; a comment", "", "  ADDD D1, D2, D15",
      "  BEQZ R1, loop", "  SB 123(R0), R2", "  J loop"].map String.toList) =
      .ok [.lw 1 2 (-4), .addd 2 4 30, .beqz 1 (-12), .sb 2 0 123, .j (-20)] := by decide +kernel

/-- Leading zeros, white space and names as log entries 20 to 22 have them. -/
theorem test_assemble_choices :
    assemble .evenFIndex 0 (["	my loop :", "ADDI R01 ,R2, #007 ", "J my loop"].map String.toList) =
      .error .unknownLabel ∧
    assemble .evenFIndex 0 (["	my loop:", "ADDI R01 ,R2, #007 ", "J my loop"].map String.toList) =
      .ok [.addi 1 2 7, .j (-8)] := by decide +kernel

/-- What R77 and R78 refuse. -/
theorem test_assemble_refuses :
    assemble .evenFIndex 0 ["MOVF2D D1, F1".toList] = .error .unknownMnemonic ∧
    assemble .evenFIndex 0 ["ADDI R1, R0, #32768".toList] = .error .outOfRange ∧
    assemble .evenFIndex 0 ["SLLI R1, R0, #32".toList] = .error .outOfRange ∧
    assemble .evenFIndex 0 ["ADDD D1, D16, D2".toList] = .error .badRegister := by decide +kernel

/-! ### Witnesses: the hypotheses of each statement are met, at the ends of their ranges -/

/-- A state with registers written, others not, at the last word of memory. -/
def wit : State :=
  { State.launch testParams [.intReg 1 0x80000000, .intReg 2 0xFFFFFFFF, .intReg 3 0, .intReg 4 0x20,
      .intReg 5 0xFFF, .intReg 6 0x1000, .fpReg 2 0x3FF00000, .fpReg 3 0, .fpReg 4 0x40080000, .fpReg 5 1,
      .fpsr true, .special 7] with pc := 0xFFC }

/-- The same with the other link and register coding, and vectored traps. -/
def wit' : State :=
  { wit with params := { testParams with
      linkDelta := .zero, dregField := .dIndex, trapMode := .vectored ⟨[(5, 0x850)], 0x800⟩, memBase := 8,
      resetPc := 8, allowSmc := true } }

/-- `wit` under a service with a given script. -/
def witServed (first : List ServiceAnswer) (always : ServiceAnswer) : State :=
  { wit with params := { testParams with trapService := .script first always } }

theorem test_witness_ReservedWordsStopTheRun :
    State.reset.status = .running ∧ State.reset.fetch = .ok 0 ∧ decode 0 = .error (.reservedFunction 0 0) := by
  decide +kernel

theorem test_witness_CanonicalSpellingAssembles :
    (Instr.srai 31 0 31).wellFormed .evenFIndex = true ∧ (Instr.sd 30 1 0x8000).wellFormed .evenFIndex = true ∧
    (Instr.addd 15 0 8).wellFormed .dIndex = true := by decide

theorem test_witness_AssemblerWritesWellFormedOnly :
    assembleInstr .evenFIndex ⟨"SLLI".toList, [.reg .int 3, .reg .int 1, .imm 31]⟩ = .ok (.slli 3 1 31) ∧
    assembleInstr .dIndex ⟨"LD".toList, [.reg .double 15, .mem (-32768) 2]⟩ = .ok (.ld 15 2 0x8000) := by
  decide +kernel

theorem test_witness_StepRunsTheDecodedInstruction :
    (testState [] 0x00221820).status = .running ∧ (testState [] 0x00221820).fetch = .ok 0x00221820 ∧
    decode 0x00221820 = .ok (.add 3 1 2) ∧ (testState [] 0x00221820).stopsUnwritten (.add 3 1 2) = false ∧
    (underR14 (testState [] 0x00221820)).fetch = .ok 0x00221820 ∧
    (underR14 (testState [] 0x00221820)).stopsUnwritten (.add 3 1 2) = true := by decide +kernel

/-- At the last word of memory; and over bytes a store wrote, with `ALLOW_SMC`. -/
theorem test_witness_StepRunsTheInstructionAtPc :
    let s := wit.withFetchWord 32 0x00221820
    let u := { wit' with modified := [0xFFC, 0xFFF] }.withFetchWord 32 0x00221820
    (s.status = .running ∧ s.pc.toNat % 4 = 0 ∧ Params.InRange s.params s.pc.toNat 4 ∧
      s.params.allowSmc = false ∧ (∀ k, k < 4 → s.pc.toNat + k ∉ s.modified) ∧
      ∀ k, k < 4 → s.mem.read (s.pc.toNat + k) = byteOfWord (encode (.add 3 1 2)) k) ∧
    (u.status = .running ∧ u.pc.toNat % 4 = 0 ∧ Params.InRange u.params u.pc.toNat 4 ∧
      u.params.allowSmc = true ∧
      ∀ k, k < 4 → u.mem.read (u.pc.toNat + k) = byteOfWord (encode (.add 3 1 2)) k) := by decide +kernel

theorem test_witness_PlacedInstructionRunsNext :
    wit.mem.wf = true ∧ wit.pc.toNat % 4 = 0 ∧ Params.InRange wit.params wit.pc.toNat 4 ∧
    State.reset.mem.wf = true ∧ State.reset.pc.toNat % 4 = 0 ∧
    Params.InRange State.reset.params State.reset.pc.toNat 4 := by decide +kernel

/-- Each check of the fetch at its bound: one byte past a word, one word past memory, one word before it,
the last byte of the word modified, and none of these. -/
theorem test_witness_FetchChecksInOrder :
    let past := { wit with pc := 0x1000 }
    let before := { wit' with pc := 4 }
    let changed := { wit with modified := [0xFFF] }
    let beside := { wit with modified := [0xFFB] }
    ({ wit with pc := 0xFFD }.pc.toNat % 4 ≠ 0) ∧
    (past.pc.toNat % 4 = 0 ∧ past.params.memBase.toNat + past.params.memSize < past.pc.toNat + 4) ∧
    (before.pc.toNat % 4 = 0 ∧ before.pc.toNat < before.params.memBase.toNat) ∧
    (changed.pc.toNat % 4 = 0 ∧ Params.InRange changed.params changed.pc.toNat 4 ∧
      changed.params.allowSmc = false ∧ changed.pc.toNat + 3 ∈ changed.modified) ∧
    (beside.pc.toNat % 4 = 0 ∧ Params.InRange beside.params beside.pc.toNat 4 ∧
      ∀ k, k < 4 → beside.pc.toNat + k ∉ beside.modified) ∧
    (wit'.pc.toNat % 4 = 0 ∧ Params.InRange wit'.params wit'.pc.toNat 4 ∧ wit'.params.allowSmc = true) ∧
    (past.status = .running ∧ past.fetch = .error .fetchOutOfRange) := by decide +kernel

/-- A fault, and a read of an unwritten register under R14. -/
theorem test_witness_FaultStopsTheRunUnchanged :
    let s := underR14 (testState [] 0x00221820)
    step State.reset = .fault .reservedInstruction ∧ s.status = .running ∧ s.fetch = .ok 0x00221820 ∧
    decode 0x00221820 = .ok (.add 3 1 2) ∧ s.stopsUnwritten (.add 3 1 2) = true :=
  ⟨rfl, by decide +kernel⟩

theorem test_witness_RunStatusAndFinalStates :
    let s := testState [] 0x44000000
    (s.saved = none ∧ s.params.trapMode = .environment ∧ s.handedOver.serviceAnswer 0 = .halt) ∧
    (s.status = .running ∧ ∃ t, step s = .next t ∧ t.status = .halted 0) ∧
    (∃ k, step State.reset = .fault k) ∧ State.Final { s with status := .faulted .dataMisaligned 0 } :=
  ⟨⟨rfl, rfl, rfl⟩, ⟨rfl, _, rfl, rfl⟩, ⟨_, rfl⟩, by intro h; cases h⟩

theorem test_witness_ResetLeavesTheStatedState : (31 : RegNum) ≠ 0 ∧ (1 : RegNum) ≠ 0 := by decide

/-- Registers nothing has written, of each kind, and a double half written. -/
theorem test_witness_UnwrittenRegistersFault :
    let s := State.resetWith testParams
    (31 : RegNum) ≠ 0 ∧ (s.r.get 31).written = false ∧ (s.f.get 0).written = false ∧
    s.fpsr.written = false ∧ s.special.written = false ∧
    (s.pair 2 = .ok ⟨2, 3⟩ ∧ s.pair 4 = .ok ⟨4, 5⟩ ∧ ((s.writeF 4 1).f.get 5).written = false) ∧
    s.status = .running ∧ s.fetch = .ok 0 ∧ (testState [] 0x00221820).status = .running ∧
    (testState [] 0x00221820).fetch = .ok 0x00221820 ∧ decode 0x00221820 = .ok (.add 3 1 2) := by
  decide +kernel

/-- The last part of the same: what an instruction reads is written, and another state has another value where
nothing is. -/
theorem test_witness_UnwrittenRegistersFault_agree :
    wit.params.unwritten ≠ .faults ∧ (underR14 wit).params.unwritten = .faults ∧
    wit.params.trapService ≠ .any ∧ wit.readsUnwritten (.add 3 1 2) = false ∧
    ∃ t : State, wit.Agrees t ∧ t.readR 31 ≠ wit.readR 31 := by
  refine ⟨by decide, rfl, by decide +kernel, by decide +kernel, { wit with r := wit.r.set 31 ⟨5, false⟩ }, ?_, by decide +kernel⟩
  constructor
  case r => unfold Marked.Agrees; decide +kernel
  all_goals first | rfl | exact ⟨rfl, fun _ => rfl⟩ | exact fun _ => ⟨rfl, fun _ => rfl⟩

/-- The order of the checks (60_exceptions.md R305): an unwritten base or divisor comes before the values of the
operands, a D field that names nothing before both, and a reserved word before all. -/
theorem test_check_order :
    endsUnwritten (testState [] (encode (.lw 3 5 1)).toNat) = true ∧
    stops (testState [] (encode (.lw 3 5 1)).toNat) .dataMisaligned = true ∧
    endsUnwritten (testState [.intReg 1 6] (encode (.div 3 1 2)).toNat) = true ∧
    stops (underR14 (testState [.intReg 1 6, .intReg 2 0] (encode (.div 3 1 2)).toNat)) .divideByZero = true ∧
    stops (underR14 (testState [] (encode (.sd 3 5 1)).toNat)) .reservedDoubleRegister = true ∧
    stops (underR14 (testState [] 0)) .reservedInstruction = true := by decide +kernel

/-- P6 of 95_test_vectors.md at its second word, and with R3 placed. -/
theorem test_vector_P6 :
    endsUnwritten (testState [.intReg 1 5] 0x00231020) = true ∧
    writes (underR14 (testState [.intReg 1 5, .intReg 3 1] 0x00231020)) [.intReg 2 6] 0x104 = true := by
  decide +kernel

/-- Even and odd fields, fields below and from 16, a pair with both halves written, and a field refused. -/
theorem test_witness_DoubleRegisterNaming :
    (30 : RegNum).val % 2 = 0 ∧ (31 : RegNum).val % 2 = 1 ∧ (15 : RegNum).val < 16 ∧ 16 ≤ (16 : RegNum).val ∧
    wit.readPair ⟨2, 3⟩ = 0x3FF0000000000000 ∧ wit.pair 30 = .ok ⟨30, 31⟩ ∧
    wit'.pair 15 = .ok ⟨30, 31⟩ ∧ 3 ∈ (Instr.addd 0 2 3).doubleFields ∧
    wit.pair 3 = .error .reservedDoubleRegister := by decide +kernel

/-- Operands of the register forms, a shift amount that is a multiple of 32 among them. -/
theorem test_witness_RegisterShiftResults :
    wit.readR 1 = 0x80000000 ∧ wit.readR 2 = 0xFFFFFFFF ∧ wit.readR 4 = 0x20 ∧
    (0x20 : Word).toNat % 32 = 0 := by decide +kernel

theorem test_witness_RegisterArithmeticResults :
    wit.readR 1 = 0x80000000 ∧ wit.readR 2 = 0xFFFFFFFF := by decide +kernel

theorem test_witness_RegisterSetResults :
    wit.readR 1 = 0x80000000 ∧ wit.readR 0 = 0 := by decide +kernel

theorem test_witness_MultiplyResults :
    wit.readR 2 = 0xFFFFFFFF ∧ wit.readR 1 = 0x80000000 := by decide +kernel

theorem test_witness_DivideResults :
    wit.readR 1 = 0x80000000 ∧ (wit.readR 4 = 0x20 ∧ (0x20 : Word) ≠ 0) ∧ wit.readR 3 = 0 ∧
    wit.readR 0 = 0 ∧ wit.readR 2 = 0xFFFFFFFF := by decide +kernel

theorem test_witness_ImmediateArithmeticResults : wit.readR 2 = 0xFFFFFFFF := by decide +kernel

theorem test_witness_ImmediateSetResults : wit.readR 1 = 0x80000000 := by decide +kernel

theorem test_witness_MoveResults :
    wit.readR 1 = 0x80000000 ∧ wit.readSpecial = 7 ∧ wit.readF 2 = 0x3FF00000 := by decide +kernel

/-- Overlapping and distinct pairs. -/
theorem test_witness_MoveDoubleResults :
    wit.pair 2 = .ok ⟨2, 3⟩ ∧ wit.pair 4 = .ok ⟨4, 5⟩ ∧ wit.readF 4 = 0x40080000 ∧ wit.readF 5 = 1 := by
  decide +kernel

theorem test_witness_SingleArithmeticResults :
    wit.readF 2 = 0x3FF00000 ∧ wit.readF 4 = 0x40080000 := by decide +kernel

theorem test_witness_DoubleArithmeticResults :
    wit.pair 30 = .ok ⟨30, 31⟩ ∧ wit.pair 2 = .ok ⟨2, 3⟩ ∧ wit.pair 4 = .ok ⟨4, 5⟩ ∧
    wit.readPair ⟨2, 3⟩ = 0x3FF0000000000000 ∧ wit.readPair ⟨4, 5⟩ = 0x4008000000000001 := by
  decide +kernel

theorem test_witness_ConversionResults :
    wit.pair 30 = .ok ⟨30, 31⟩ ∧ wit.readF 2 = 0x3FF00000 ∧ wit.pair 4 = .ok ⟨4, 5⟩ ∧
    wit.readPair ⟨4, 5⟩ = 0x4008000000000001 ∧ wit.readR 1 = 0x80000000 := by decide +kernel

theorem test_witness_SingleCompareResults :
    wit.readF 2 = 0x3FF00000 ∧ wit.readF 3 = 0 := by decide +kernel

theorem test_witness_DoubleCompareResults :
    wit.pair 2 = .ok ⟨2, 3⟩ ∧ wit.pair 4 = .ok ⟨4, 5⟩ ∧ wit.readPair ⟨2, 3⟩ = 0x3FF0000000000000 ∧
    wit.readPair ⟨4, 5⟩ = 0x4008000000000001 := by decide +kernel

/-- A pattern at each end of the ranges of the exponent and the fraction. -/
theorem test_witness_PatternsDenoteIeeeValues :
    let e (v : Word) := (v.extractLsb' 23 8).toNat
    let m (v : Word) := (v.extractLsb' 0 23).toNat
    let e' (v : DWord) := (v.extractLsb' 52 11).toNat
    let m' (v : DWord) := (v.extractLsb' 0 52).toNat
    (e 0x7F800000 = 255 ∧ m 0x7F800000 = 0) ∧ (e 0xFF800001 = 255 ∧ m 0xFF800001 ≠ 0) ∧ e 0x807FFFFF = 0 ∧
    (0 < e 0x00800000 ∧ e 0x00800000 < 255) ∧ (0 < e 0x7F7FFFFF ∧ e 0x7F7FFFFF < 255) ∧
    (e' 0x7FF0000000000000 = 2047 ∧ m' 0x7FF0000000000000 = 0) ∧
    (e' 0xFFF0000000000001 = 2047 ∧ m' 0xFFF0000000000001 ≠ 0) ∧ e' 0x800FFFFFFFFFFFFF = 0 ∧
    (0 < e' 0x0010000000000000 ∧ e' 0x7FEFFFFFFFFFFFFF < 2047) := by decide +kernel

/-- Finite operands: the largest, the smallest subnormal, a negative zero; and a divisor that is not zero. -/
theorem test_witness_ArithmeticIsCorrectlyRounded :
    single 0x7F7FFFFF = .finite false ((2 ^ 24 - 1) * 2 ^ 253) ∧ single 0x80000001 = .finite true 1 ∧
    single 0x80000000 = .finite true 0 ∧ (1 : Nat) ≠ 0 ∧
    double 0x7FEFFFFFFFFFFFFF = .finite false ((2 ^ 53 - 1) * 2 ^ 2045) ∧
    double 0x8000000000000001 = .finite true 1 ∧ double 0x8000000000000000 = .finite true 0 := by
  decide +kernel

/-- Numbers, zeros and infinities of both signs, in both formats. -/
theorem test_witness_ZeroAndInfinityResults :
    (single 0x3F800000 = .finite false (2 ^ 149) ∧ single 0xBF800000 = .finite (!false) (2 ^ 149) ∧
      2 ^ 149 ≠ 0 ∧ 2 ^ 149 * 0 = 0) ∧
    (single 0x00000000 = .finite false 0 ∧ single 0x80000000 = .finite (!false) 0) ∧
    (single 0x7F800000 = .inf false ∧ single 0xFF800000 = .inf (!false)) ∧
    (double 0x3FF0000000000000 = .finite false (2 ^ 1074) ∧
      double 0xBFF0000000000000 = .finite (!false) (2 ^ 1074) ∧ 2 ^ 1074 ≠ 0 ∧ 2 ^ 1074 * 0 = 0) ∧
    (double 0x0000000000000000 = .finite false 0 ∧ double 0x8000000000000000 = .finite (!false) 0) ∧
    (double 0x7FF0000000000000 = .inf false ∧ double 0xFFF0000000000000 = .inf (!false)) := by decide +kernel

theorem test_witness_WideningIsExact :
    single 0x80000001 ≠ .nan ∧ single 0x80000001 = .finite true 1 ∧ single 0xFF800000 ≠ .nan ∧
    single 0xFF800000 = .inf true := by decide +kernel

theorem test_witness_IntegersConvertExactly :
    (0x01000000 : Word).toInt.natAbs ≤ 2 ^ 24 ∧ (0xFF000000 : Word).toInt.natAbs ≤ 2 ^ 24 := by decide +kernel

/-- The largest and smallest numbers that convert, the first ones beyond, and what is no number. -/
theorem test_witness_ConversionToIntegerTruncates :
    (single 0xCF000000 = .finite true (2 ^ 180) ∧ -2147483648 ≤ signedUnits true (2 ^ 180 / 2 ^ 149)) ∧
    (single 0x4F000000 = .finite false (2 ^ 180) ∧ 2147483647 < signedUnits false (2 ^ 180 / 2 ^ 149)) ∧
    (single 0xCF000001 = .finite true ((2 ^ 23 + 1) * 2 ^ 157) ∧
      signedUnits true ((2 ^ 23 + 1) * 2 ^ 157 / 2 ^ 149) < -2147483648) ∧
    single 0x7F800001 = .nan ∧ single 0xFF800000 = .inf true ∧
    (double 0x41DFFFFFFFFFFFFF = .finite false ((2 ^ 53 - 1) * 2 ^ 1052) ∧
      signedUnits false ((2 ^ 53 - 1) * 2 ^ 1052 / 2 ^ 1074) ≤ 2147483647) ∧
    (double 0xC1E0000000200000 = .finite true ((2 ^ 52 + 2 ^ 21) * 2 ^ 1053) ∧
      signedUnits true ((2 ^ 52 + 2 ^ 21) * 2 ^ 1053 / 2 ^ 1074) < -2147483648) ∧
    double 0x7FF0000000000001 = .nan ∧ double 0xFFF0000000000000 = .inf true := by decide +kernel

theorem test_witness_ComparisonIsByValue :
    single 0x80000000 = .finite true 0 ∧ single 0x00000001 = .finite false 1 ∧
    (single 0x7F800000 = .inf false ∧ single 0x00000001 ≠ .nan ∧ single 0x00000001 ≠ .inf false) ∧
    (single 0xFF800000 = .inf true ∧ single 0x7F800000 ≠ .nan ∧ single 0x7F800000 ≠ .inf true) ∧
    double 0x8000000000000000 = .finite true 0 ∧ double 0x0000000000000001 = .finite false 1 ∧
    (double 0x7FF0000000000000 = .inf false ∧ double 0x0000000000000001 ≠ .nan ∧
      double 0x0000000000000001 ≠ .inf false) ∧
    (double 0xFFF0000000000000 = .inf true ∧ double 0x7FF0000000000000 ≠ .nan ∧
      double 0x7FF0000000000000 ≠ .inf true) := by decide +kernel

theorem test_witness_JumpResults :
    wit.readR 6 = 0x1000 ∧ wit.params.linkDelta = .four ∧ wit'.readR 6 = 0x1000 ∧
    wit'.params.linkDelta = .zero := by decide +kernel

theorem test_witness_BranchResults :
    wit.readR 3 = 0 ∧ wit.readR 2 = 0xFFFFFFFF ∧ wit.readFpsr = true ∧
    ({ wit with fpsr := ⟨false, true⟩ } : State).readFpsr = false := by decide +kernel

/-- Stores at the last word and the last double word of memory. -/
theorem test_witness_NarrowReadsOfWideWrites :
    wit.mem.wf = true ∧ (∃ t, wit.memWrite 0xFFC 4 (0x80FF0102 : Word) = .ok t) ∧
    ∃ t, wit.memWrite 0xFF8 8 (0x80FF010203040506 : DWord) = .ok t := ⟨rfl, ⟨_, rfl⟩, ⟨_, rfl⟩⟩

/-- Misaligned; aligned just past memory, just before it, and at its last bytes. -/
theorem test_witness_DataAccessChecks :
    (8 ∈ [1, 2, 4, 8] ∧ (0xFFC : Word).toNat % 8 ≠ 0) ∧
    ((0x1000 : Word).toNat % 8 = 0 ∧ wit.params.memBase.toNat + wit.params.memSize < (0x1000 : Word).toNat + 8) ∧
    ((0 : Word).toNat % 8 = 0 ∧ (0 : Word).toNat < wit'.params.memBase.toNat) ∧ wit.params.Ok ∧ wit'.params.Ok ∧
    ((0xFF8 : Word).toNat % 8 = 0 ∧ wit.params.memBase.toNat ≤ (0xFF8 : Word).toNat ∧
      (0xFF8 : Word).toNat + 8 ≤ wit.params.memBase.toNat + wit.params.memSize) := by decide +kernel

/-- The last byte, half word and word of memory. -/
theorem test_witness_IntegerLoadResults :
    wit.readR 5 = 0xFFF ∧ Params.InRange wit.params (effectiveAddress 0xFFF 0).toNat 1 ∧
    ((effectiveAddress 0xFFF (-1)).toNat % 2 = 0 ∧
      Params.InRange wit.params (effectiveAddress 0xFFF (-1)).toNat 2) ∧
    ((effectiveAddress 0xFFF (-3)).toNat % 4 = 0 ∧
      Params.InRange wit.params (effectiveAddress 0xFFF (-3)).toNat 4) := by decide +kernel

theorem test_witness_FloatLoadResults :
    wit.readR 6 = 0x1000 ∧ ((effectiveAddress 0x1000 (-4)).toNat % 4 = 0 ∧
      Params.InRange wit.params (effectiveAddress 0x1000 (-4)).toNat 4) ∧
    (wit.pair 30 = .ok ⟨30, 31⟩ ∧ (effectiveAddress 0x1000 (-8)).toNat % 8 = 0 ∧
      Params.InRange wit.params (effectiveAddress 0x1000 (-8)).toNat 8) := by decide +kernel

theorem test_witness_IntegerStoreResults :
    wit.mem.wf = true ∧ wit.readR 5 = 0xFFF ∧ wit.readR 2 = 0xFFFFFFFF ∧
    Params.InRange wit.params (effectiveAddress 0xFFF 0).toNat 1 ∧
    ((effectiveAddress 0xFFF (-1)).toNat % 2 = 0 ∧
      Params.InRange wit.params (effectiveAddress 0xFFF (-1)).toNat 2) ∧
    ((effectiveAddress 0xFFF (-3)).toNat % 4 = 0 ∧
      Params.InRange wit.params (effectiveAddress 0xFFF (-3)).toNat 4) := by decide +kernel

theorem test_witness_FloatStoreResults :
    wit.mem.wf = true ∧ wit.readR 6 = 0x1000 ∧ wit.readF 4 = 0x40080000 ∧ wit.readF 5 = 1 ∧
    wit.pair 4 = .ok ⟨4, 5⟩ ∧ ((effectiveAddress 0x1000 (-4)).toNat % 4 = 0 ∧
      Params.InRange wit.params (effectiveAddress 0x1000 (-4)).toNat 4) ∧
    ((effectiveAddress 0x1000 (-8)).toNat % 8 = 0 ∧
      Params.InRange wit.params (effectiveAddress 0x1000 (-8)).toNat 8) := by decide +kernel

/-- Each check that can fail, at the first address where it does. -/
theorem test_witness_LoadStoreFaults_accesses :
    AccessFault wit (wit.readAddress 6 0) 1 .dataOutOfRange ∧
    AccessFault wit (wit.readAddress 6 0) 2 .dataOutOfRange ∧
    AccessFault wit (wit.readAddress 6 (-1)) 2 .dataMisaligned ∧
    AccessFault wit (wit.readAddress 6 0) 4 .dataOutOfRange ∧
    AccessFault wit (wit.readAddress 6 (-2)) 4 .dataMisaligned ∧
    AccessFault wit (wit.readAddress 6 0) 8 .dataOutOfRange ∧
    AccessFault wit (wit.readAddress 6 (-4)) 8 .dataMisaligned :=
  ⟨.inr (by decide +kernel), .inr (by decide +kernel), .inl (by decide +kernel), .inr (by decide +kernel),
    .inl (by decide +kernel), .inr (by decide +kernel), .inl (by decide +kernel)⟩

/-- The operands of the same statement: unwritten ones. -/
theorem test_witness_LoadStoreFaults :
    (31 : RegNum) ≠ 0 ∧ (wit.r.get 31).written = false ∧ (wit.f.get 31).written = false ∧
    wit.pair 30 = .ok ⟨30, 31⟩ ∧ wit.pair 2 = .ok ⟨2, 3⟩ ∧
    (underR14 wit).params.unwritten = .faults ∧ (underR14 wit).pair 30 = .ok ⟨30, 31⟩ ∧
    ((underR14 wit).r.get 31).written = false ∧ ((underR14 wit).f.get 31).written = false := by decide +kernel

theorem test_witness_LoadAfterStoreRestores :
    wit.mem.wf = true ∧ (∃ t, exec (.sw 2 6 (-4)) wit = .next t) ∧ (∃ t, exec (.sf 4 6 (-4)) wit = .next t) ∧
    wit.pair 4 = .ok ⟨4, 5⟩ ∧ ∃ t, exec (.sd 4 6 (-8)) wit = .next t :=
  ⟨rfl, ⟨_, rfl⟩, ⟨_, rfl⟩, rfl, ⟨_, rfl⟩⟩

/-- A service that halts, a script with a line left and one that is spent, and a service that always
resumes. -/
theorem test_witness_TrapInEnvironmentMode :
    let ws : List HostWrite := [.intReg 1 9, .byte 0xFFF 0x5A]
    let spent := { witServed [.resume ws] .halt with served := 1 }
    let always := { witServed [] (.resume ws) with served := 1000 }
    (wit.saved = none ∧ wit.params.trapMode = .environment ∧
      wit.params.trapService = Config.defaults.trapService ∧ wit.handedOver.serviceAnswer 5 = .halt) ∧
    ((witServed [.resume ws] .halt).params.trapService = .script [.resume ws] .halt ∧
      [ServiceAnswer.resume ws][(witServed [.resume ws] .halt).served]? = some (.resume ws) ∧
      (witServed [.resume ws] .halt).handedOver.serviceAnswer 5 = .resume ws) ∧
    ([ServiceAnswer.resume ws].length ≤ spent.served ∧ spent.handedOver.serviceAnswer 5 = .halt) ∧
    always.handedOver.serviceAnswer 5 = .resume ws := by decide +kernel

theorem test_witness_ServiceWritesStayInBounds :
    wit.mem.wf = true ∧ Params.InRange wit.params (0xFFF : Word).toNat 1 ∧
    ¬ Params.InRange wit.params (0x1000 : Word).toNat 1 := by decide +kernel

theorem test_witness_TrapInVectoredMode :
    wit'.saved = none ∧ wit'.params.trapMode = .vectored ⟨[(5, 0x850)], 0x800⟩ := by decide +kernel

theorem test_witness_ReturnFromTrapAndNesting :
    ({ wit' with saved := some 0x1000 } : State).saved = some 0x1000 ∧ wit'.saved = none := by decide +kernel

theorem test_witness_ReturnUndoesVectoredTrap :
    wit'.saved = none ∧ wit'.params.trapMode = .vectored ⟨[(5, 0x850)], 0x800⟩ := by decide +kernel

/-- The invariant, at a state with memory, stored bytes and a saved address. -/
theorem test_invariant :
    State.Inv { wit' with mem := [(0xFF8, 1), (0x1007, 2)], modified := [8, 0x1007], saved := some 0xFFFFFFFC } where
  params := by decide +kernel
  memory_canonical := by decide +kernel
  memory_exists := by decide +kernel
  modified_rising := by decide +kernel
  modified_exists := by decide +kernel
  r0_constant := by decide +kernel
  resume_aligned := by intro a h; cases h; decide +kernel
  environment_unsaved := by intro _ h; cases h

/-- The invariant in environment mode, and of a TRAP about to run. -/
theorem test_invariant_environment : State.Inv (testState [] 0x44000005) where
  params := by decide +kernel
  memory_canonical := by decide +kernel
  memory_exists := by decide +kernel
  modified_rising := by decide +kernel
  modified_exists := by decide +kernel
  r0_constant := by decide +kernel
  resume_aligned := by intro a h; cases h
  environment_unsaved := by intros; rfl

theorem test_witness_EnvironmentModeNeverReturnsByRfe :
    State.Inv (testState [] 0x44000005) ∧ (testState [] 0x44000005).status = .running ∧
    (testState [] 0x44000005).params.trapMode = .environment := ⟨test_invariant_environment, rfl, rfl⟩

/-- Parameters the rules allow; RESET_PC misaligned, below memory and past it, which they do not. -/
theorem test_witness_ResetMeetsTheInvariant :
    testParams.Ok ∧ Config.defaults.Ok ∧ wit'.params.Ok ∧ ({ testParams with resetPc := 0xFFC } : Params).Ok ∧
    ¬ ({ testParams with resetPc := 2 } : Params).Ok ∧ ¬ ({ wit'.params with resetPc := 4 } : Params).Ok ∧
    ¬ ({ testParams with resetPc := 0x1000 } : Params).Ok := by decide +kernel

theorem test_witness_StepKeepsTheInvariant :
    State.Inv (testState [] 0x44000005) ∧ ∃ t, step (testState [] 0x44000005) = .next t :=
  ⟨test_invariant_environment, _, rfl⟩

/-- A launch that places an instruction and reaches the state after it. -/
theorem test_witness_EveryReachedStateMeetsTheInvariant :
    ({ testParams with trapService := .script [] (.resume [.intReg 1 9]) } : Params).Ok ∧
    testParams.Ok ∧ ∃ t, t ≠ State.launch testParams [.byte 0 0x3C, .byte 3 1] ∧
      Reaches (State.launch testParams [.byte 0 0x3C, .byte 3 1]) t := by
  refine ⟨by decide +kernel, by decide +kernel, _, ?_, .tail .refl (rfl : step _ = .next _)⟩
  intro h
  exact absurd (congrArg State.pc h) (by decide +kernel)

theorem test_witness_EachStateHasItsWriters :
    (∃ t, exec (.sw 2 6 (-4)) wit = .next t) ∧ (∃ t, exec (.movi2s 1) wit = .next t) ∧
    (∃ t, exec (.eqf 2 3) wit = .next t) ∧ (∃ t, exec (.add 1 2 3) wit = .next t) ∧
    (∃ t, exec .rfe { wit with saved := some 4 } = .next t) ∧ (∃ t, exec (.trap 5) wit = .next t) ∧
    (∀ n, Instr.sw 2 6 (-4) ≠ .trap n) ∧ (Instr.sw 2 6 (-4)).isComparison = false ∧
    (Instr.add 1 2 3).isStore = false ∧ (Instr.add 1 2 3).writesSpecial = false ∧ Instr.add 1 2 3 ≠ .rfe ∧
    (Instr.add 1 2 3).isTransfer = false :=
  ⟨⟨_, rfl⟩, ⟨_, rfl⟩, ⟨_, rfl⟩, ⟨_, rfl⟩, ⟨_, rfl⟩, ⟨_, rfl⟩, nofun, rfl, rfl, rfl, nofun, rfl⟩

/-- A fault of each kind an instruction raises, and faults of the step itself. -/
theorem test_witness_FaultsAreRaisedAsListed :
    (underR14 wit).stopsUnwritten (.add 1 2 31) = true ∧ exec (.div 1 2 3) wit = .fault .divideByZero ∧
    exec (.lw 1 6 2) wit = .fault .dataMisaligned ∧ exec (.lb 1 6 0) wit = .fault .dataOutOfRange ∧
    exec (.movd 1 2) wit = .fault .reservedDoubleRegister ∧ exec .rfe wit = .fault .rfeNoSavedState ∧
    exec (.trap 5) { wit' with saved := some 4 } = .fault .nestedTrap ∧
    (State.Inv { wit' with mem := [(0xFF8, 1), (0x1007, 2)], modified := [8, 0x1007], saved := some 0xFFFFFFFC }
      ∧ wit'.status = .running) ∧
    step State.reset = .fault .reservedInstruction ∧
    step { wit with pc := 0xFFD } = .fault .fetchMisaligned ∧
    step (testState [] 0x40000000) = .fault .rfeNoSavedState ∧
    (underR14 (testState [] 0x00221820)).status = .running ∧
    step (underR14 (testState [] 0x00221820)) = .next { underR14 (testState [] 0x00221820) with
      status := .faulted .unwrittenRead 0x100 } :=
  ⟨rfl, rfl, rfl, rfl, rfl, rfl, rfl, ⟨test_invariant, rfl⟩, rfl, rfl, rfl, rfl, rfl⟩

end Sys2Proof.Tests
end

/-! The state after reset, field by field, and the invariant of it. -/

namespace Sys2Proof.Machine

section Reset
variable (p : Params)

@[simp] theorem State.resetWith_params : (State.resetWith p).params = p := rfl

@[simp] theorem State.resetWith_mem : (State.resetWith p).mem = [] := rfl

@[simp] theorem State.resetWith_modified : (State.resetWith p).modified = [] := rfl

@[simp] theorem State.resetWith_saved : (State.resetWith p).saved = none := rfl

@[simp] theorem State.resetWith_r_get (i : RegNum) :
    (State.resetWith p).r.get i = resetIntReg p.unwritten i :=
  Vector.get_ofFn _ i

@[simp] theorem resetIntReg_zero (u : UnwrittenRule) : resetIntReg u 0 = ⟨0, true⟩ := rfl

/-- Only the launch parameters can break the invariant at reset: nothing is listed in memory or in `modified`
and nothing is saved, so those clauses are empty, and slot 0 starts as R0. -/
theorem State.resetWith_inv (h : p.Ok) : (State.resetWith p).Inv where
  params := h
  memory_canonical := rfl
  memory_exists := by simp
  modified_rising := rfl
  modified_exists := by simp
  r0_constant := by simp
  resume_aligned := by simp
  environment_unsaved := by simp

end Reset

/-- Memory over the whole address space holds the word at address 0 (00_scope.md R4, 70_reset_and_hazards.md
R351). -/
theorem defaults_ok : Config.defaults.Ok := by decide

/-- Settles O55: the defaults are allowed parameters, so the machine's own reset is one case of the general
claim. -/
theorem resetMeetsTheInvariant : Obligations.ResetMeetsTheInvariant :=
  ⟨State.resetWith_inv, State.resetWith_inv Config.defaults defaults_ok⟩

end Sys2Proof.Machine

/-! The registers: what reset leaves in them, what a D field names, and that a step checks D fields before
operand reads (10_state.md R11 to R18, R27). -/

namespace Sys2Proof.Machine

/-! ### Reset and R0 -/

@[simp] theorem State.resetWith_f_get (p : Params) (i : RegNum) :
    (State.resetWith p).f.get i = resetFpReg p.unwritten i :=
  Vector.get_ofFn _ i

/-- Only R0 counts as written after reset. -/
theorem resetIntReg_written {u : UnwrittenRule} {i : RegNum} (hi : i ≠ 0) :
    (resetIntReg u i).written = false := by
  simp [resetIntReg, hi]

@[simp] theorem resetFpReg_written (u : UnwrittenRule) (i : RegNum) : (resetFpReg u i).written = false := rfl

/-- Settles O13: the marks come from the registers as reset fills them, every other part is the field's own
value, and the core resets under the defaults by definition. -/
theorem resetLeavesTheStatedState : Obligations.ResetLeavesTheStatedState := by
  refine ⟨fun p => ⟨State.readR_zero _, fun i hi => ?_, fun i => ?_, rfl, rfl, rfl, rfl, rfl, rfl⟩,
    rfl, rfl, rfl, rfl, rfl, rfl, rfl, rfl⟩
  · rw [State.resetWith_r_get, resetIntReg_written hi]
  · rw [State.resetWith_f_get, resetFpReg_written]

@[simp] theorem State.hasWritten_int_zero (s : State) : s.hasWritten (.int 0) = true := rfl

/-- Settles O14. -/
theorem r0ReadsZeroInEveryState : Obligations.R0ReadsZeroInEveryState :=
  fun s => ⟨s.readR_zero, s.hasWritten_int_zero⟩

/-! ### What a D field names -/

/-- The check of a D field looks for the pair the field names. -/
theorem State.names_iff_pair {s : State} {k : RegNum} :
    s.params.dregField.names k = true ↔ ∃ p, s.pair k = .ok p := by
  refine ⟨DregField.pair_of_names, ?_⟩
  rintro ⟨p, hp⟩
  unfold State.pair at hp
  cases hd : s.params.dregField <;> rw [hd] at hp
  · simpa [DregField.names] using (DregField.pair_even_ok.mp hp).1
  · simpa [DregField.names] using (DregField.pair_index_ok.mp hp).1

/-- The check of the D fields passes exactly when each of them names a pair. -/
theorem State.namesDoubles_iff {s : State} {i : Instr} :
    s.namesDoubles i = true ↔ ∀ k ∈ i.doubleFields, ∃ p, s.pair k = .ok p := by
  simp only [State.namesDoubles, List.all_eq_true, State.names_iff_pair]

/-- Under `even_f_index` an even field names the register of its number and the next one. -/
theorem DregField.pair_even {k : RegNum} (hk : k.val % 2 = 0) :
    ∃ p, DregField.pair .evenFIndex k = .ok p ∧ p.hi.val = k.val ∧ p.lo.val = k.val + 1 := by
  refine ⟨⟨k, k + 1⟩, DregField.pair_even_ok.mpr ⟨hk, rfl⟩, rfl, ?_⟩
  simp only [Fin.val_add, Fin.val_one]
  omega

/-- Under `d_index` a field below 16 names the registers of twice its number and the next one. -/
theorem DregField.pair_index {k : RegNum} (hk : k.val < 16) :
    ∃ p, DregField.pair .dIndex k = .ok p ∧ p.hi.val = 2 * k.val ∧ p.lo.val = 2 * k.val + 1 := by
  refine ⟨⟨k + k, k + k + 1⟩, DregField.pair_index_ok.mpr ⟨hk, rfl⟩, ?_⟩
  simp only [Fin.val_add, Fin.val_one]
  omega

/-! ### A D field that names nothing -/

/-- A check of a D field and what follows it raise the fault of the check, when what follows the check does. -/
theorem withPair_reserved {s : State} {k : RegNum} {f : Pair → StepOutcome}
    (h : ∀ p, s.pair k = .ok p → f p = .fault .reservedDoubleRegister) :
    withOperand (s.pair k) f = .fault .reservedDoubleRegister := by
  cases e : s.pair k with
  | ok p => exact h p e
  | error x => exact congrArg Host.Outcome.fault (DregField.pair_error e)

/-- The one D field, checked first, names nothing. -/
theorem withPair_reserved_one {s : State} {k a : RegNum} {f : Pair → StepOutcome} (hk : k ∈ [a])
    (he : s.pair k = .error .reservedDoubleRegister) :
    withOperand (s.pair a) f = .fault .reservedDoubleRegister :=
  withPair_reserved fun pa ha => by
    obtain rfl := List.mem_singleton.mp hk
    rw [ha] at he
    cases he

/-- One of the two D fields, both checked first, names nothing. -/
theorem withPair_reserved_two {s : State} {k a b : RegNum} {f : Pair → Pair → StepOutcome} (hk : k ∈ [a, b])
    (he : s.pair k = .error .reservedDoubleRegister) :
    (withOperand (s.pair a) fun pa => withOperand (s.pair b) (f pa)) = .fault .reservedDoubleRegister :=
  withPair_reserved fun pa ha => by
    rcases List.mem_cons.mp hk with rfl | hb
    · rw [ha] at he
      cases he
    · exact withPair_reserved_one hb he

/-- One of the three D fields of an operation on doubles names nothing. -/
theorem doubleDouble_reserved {op : DWord → DWord → FpResult} {s : State} {k dd ds dc : RegNum}
    (hk : k ∈ [dd, ds, dc]) (he : s.pair k = .error .reservedDoubleRegister) :
    doubleDouble op dd ds dc s = .fault .reservedDoubleRegister :=
  withPair_reserved fun pd hd => by
    rcases List.mem_cons.mp hk with rfl | hb
    · rw [hd] at he
      cases he
    · exact withPair_reserved_two hb he

/-- An instruction with a D field that names no pair does nothing but fault (10_state.md R18). -/
theorem exec_reservedDoubleRegister {i : Instr} {s : State} {k : RegNum} (hk : k ∈ i.doubleFields)
    (he : s.pair k = .error .reservedDoubleRegister) : exec i s = .fault .reservedDoubleRegister := by
  cases i with
  | addd dd ds dc | subd dd ds dc | multd dd ds dc | divd dd ds dc => exact doubleDouble_reserved hk he
  | movd a b | eqd a b | ned a b | ltd a b | gtd a b | led a b | ged a b => exact withPair_reserved_two hk he
  | cvtf2d a | cvti2d a | ld a | sd a => exact withPair_reserved_one hk he
  | cvtd2f _ a | cvtd2i _ a => exact withPair_reserved_one hk he
  | _ => cases hk

/-- Where a D field names no pair, the check of the operand reads is not reached. -/
theorem State.stopsUnwritten_of_reserved {i : Instr} {s : State} {k : RegNum} {e : Fault}
    (hk : k ∈ i.doubleFields) (he : s.pair k = .error e) : s.stopsUnwritten i = false := by
  rw [Bool.eq_false_iff]
  intro hstop
  obtain ⟨-, hreads⟩ := State.stopsUnwritten_iff.mp hstop
  obtain ⟨hnames, -⟩ := State.readsUnwritten_iff.mp hreads
  obtain ⟨p, hp⟩ := State.namesDoubles_iff.mp hnames k hk
  rw [hp] at he
  cases he

/-- Settles O16: the two codings by their equations, the pair by its write and read, and the fault by the one
check that every D field passes before anything else. -/
theorem doubleRegisterNaming : Obligations.DoubleRegisterNaming := by
  refine ⟨rfl, fun k hk => DregField.pair_even hk, fun k hk => if_neg (by omega),
    fun k hk => DregField.pair_index hk, fun k hk => if_neg (by omega), fun s p => rfl,
    fun s k p v hp => ?_, fun i s k hk he => ?_⟩
  · have hne := DregField.pair_hi_ne_lo hp
    exact ⟨s.writesPair_writePair p v hne, s.readPair_writePair p v hne⟩
  · have hexec := exec_reservedDoubleRegister hk he
    exact ⟨hexec, (execChecked_runs (State.stopsUnwritten_of_reserved hk he)).trans hexec⟩

end Sys2Proof.Machine

/-! Everything a completed instruction can do to the state, and who may write what (10_state.md R19 to R28,
20_memory.md R30). -/

namespace Sys2Proof.Machine

/-- At most integer registers, F registers and the count of draws differ. -/
structure OnlyRegisters (s t : State) : Prop where
  keeps : KeepsMachine s t
  fpsr : t.fpsr = s.fpsr
  special : t.special = s.special
  pc : t.pc = s.pc

namespace OnlyRegisters

theorem refl (s : State) : OnlyRegisters s s := ⟨.refl s, rfl, rfl, rfl⟩

theorem trans {s t u : State} (h : OnlyRegisters s t) (k : OnlyRegisters t u) : OnlyRegisters s u :=
  ⟨h.keeps.trans k.keeps, k.fpsr.trans h.fpsr, k.special.trans h.special, k.pc.trans h.pc⟩

theorem writeR (s : State) (rd : RegNum) (v : Word) : OnlyRegisters s (s.writeR rd v) :=
  ⟨keeps_writeR s rd v, s.writeR_fpsr rd v, s.writeR_special rd v, s.writeR_pc rd v⟩

theorem writeF (s : State) (fd : RegNum) (v : Word) : OnlyRegisters s (s.writeF fd v) :=
  ⟨keeps_writeF s fd v, rfl, rfl, rfl⟩

theorem writePair (s : State) (p : Pair) (v : DWord) : OnlyRegisters s (s.writePair p v) :=
  ⟨keeps_writePair s p v, rfl, rfl, rfl⟩

theorem drawn (s : State) : OnlyRegisters s s.drawn := ⟨keeps_drawn s, rfl, rfl, rfl⟩

theorem putSingle (s : State) (fd : RegNum) (x : FpResult) : OnlyRegisters s (s.putSingle fd x) := by
  cases x with
  | pattern v => exact writeF s fd _
  | anyNan => exact (drawn s).trans (writeF _ fd _)

theorem putDouble (s : State) (p : Pair) (x : FpResult) : OnlyRegisters s (s.putDouble p x) := by
  cases x with
  | pattern v => exact writePair s p _
  | anyNan => exact (drawn s).trans (writePair _ p _)

theorem putInt (s : State) (rd : RegNum) (x : Option Word) : OnlyRegisters s (s.putInt rd x) := by
  cases x with
  | some v => exact writeR s rd v
  | none => exact (drawn s).trans (writeR _ rd _)

end OnlyRegisters

/-- What a completed instruction makes of a state, said once for all instructions. -/
inductive Effect (s : State) : Instr → State → Prop where
  /-- Registers are written, and the machine goes on. -/
  | goesOn {i : Instr} {u : State} : OnlyRegisters s u → Effect s i u.advance
  | compares {i : Instr} (b : Bool) : i.isComparison = true → Effect s i (s.writeFpsr b).advance
  | stores {i : Instr} {a : Word} {n : Nat} {v : BitVec (8 * n)} {u : State} : i.isStore = true →
      s.memWrite a n v = .ok u → Effect s i u.advance
  | movesToSpecial {i : Instr} (v : Word) : i.writesSpecial = true → Effect s i (s.writeSpecial v).advance
  /-- A link register may be written, and control goes somewhere. -/
  | transfers {i : Instr} {u : State} (a : Word) : i.isTransfer = true → OnlyRegisters s u →
      Effect s i (u.jumpTo a)
  | returns {a : Word} : s.saved = some a → Effect s .rfe { s with pc := a, saved := none }
  | traps {n : Dest26} {t : State} : s.takeTrap n = .next t → Effect s (.trap n) t

/-! ### The effect of each shape, for whatever instruction has it -/

section Shapes
variable {i : Instr} {s t : State}

theorem regReg_effect {op : Word → Word → Word} {rd rs rc : RegNum} (h : regReg op rd rs rc s = .next t) :
    Effect s i t := by
  obtain rfl := regReg_next.mp h
  exact .goesOn (.writeR ..)

theorem regRegDivide_effect {op : Word → Word → Word} {rd rs rc : RegNum}
    (h : regRegDivide op rd rs rc s = .next t) : Effect s i t := by
  obtain ⟨-, rfl⟩ := regRegDivide_next.mp h
  exact .goesOn (.writeR ..)

theorem regImm_effect {op : Word → Word} {rd rs : RegNum} (h : regImm op rd rs s = .next t) :
    Effect s i t := by
  obtain rfl := regImm_next.mp h
  exact .goesOn (.writeR ..)

theorem singleSingle_effect {op : Word → Word → FpResult} {fd fs fc : RegNum}
    (h : singleSingle op fd fs fc s = .next t) : Effect s i t := by
  obtain rfl := singleSingle_next.mp h
  exact .goesOn (.putSingle ..)

theorem doubleDouble_effect {op : DWord → DWord → FpResult} {dd ds dc : RegNum}
    (h : doubleDouble op dd ds dc s = .next t) : Effect s i t := by
  obtain ⟨pd, -, ps, -, pc, -, rfl⟩ := doubleDouble_next.mp h
  exact .goesOn (.putDouble ..)

theorem compareSingle_effect {holds : FpOrder → Bool} {fs fc : RegNum} (hi : i.isComparison = true)
    (h : compareSingle holds fs fc s = .next t) : Effect s i t := by
  obtain rfl := compareSingle_next.mp h
  exact .compares _ hi

theorem compareDouble_effect {holds : FpOrder → Bool} {ds dc : RegNum} (hi : i.isComparison = true)
    (h : compareDouble holds ds dc s = .next t) : Effect s i t := by
  obtain ⟨ps, -, pc, -, rfl⟩ := compareDouble_next.mp h
  exact .compares _ hi

theorem loadInt_effect {n : Nat} {ext : BitVec (8 * n) → Word} {rd rs : RegNum} {imm : Imm16}
    (h : loadInt n ext rd rs imm s = .next t) : Effect s i t := by
  obtain ⟨v, -, rfl⟩ := loadInt_next.mp h
  exact .goesOn (.writeR ..)

theorem memWrite_effect {a : Word} {n : Nat} {v : BitVec (8 * n)} (hi : i.isStore = true)
    (h : withOperand (s.memWrite a n v) (fun u => .next u.advance) = .next t) : Effect s i t := by
  obtain ⟨u, hu, h⟩ := withOperand_next.mp h
  obtain rfl := Host.Outcome.next.inj h
  exact .stores hi hu

theorem branch_effect {taken : Bool} {imm : Imm16} (hi : i.isTransfer = true)
    (h : branch taken imm s = .next t) : Effect s i t := by
  obtain rfl := branch_next.mp h
  exact .transfers _ hi (.refl s)

/-- The end of an instruction that has written registers alone. -/
theorem next_advance_effect {u : State} (hu : OnlyRegisters s u)
    (h : (Host.Outcome.next u.advance : StepOutcome) = .next t) : Effect s i t := by
  obtain rfl := Host.Outcome.next.inj h
  exact .goesOn hu

/-- The end of a jump. -/
theorem next_jumpTo_effect {u : State} {a : Word} (hi : i.isTransfer = true) (hu : OnlyRegisters s u)
    (h : (Host.Outcome.next (u.jumpTo a) : StepOutcome) = .next t) : Effect s i t := by
  obtain rfl := Host.Outcome.next.inj h
  exact .transfers a hi hu

end Shapes

/-- Every completed instruction has one of the effects. -/
theorem exec_effect {i : Instr} {s t : State} (h : exec i s = .next t) : Effect s i t := by
  unfold exec at h
  cases i with
  | sll | srl | sra | add | addu | sub | subu | and | or | xor | seq | sne | slt | sgt | sle | sge
  | mult | multu => exact regReg_effect h
  | div | divu => exact regRegDivide_effect h
  | addi | addui | subi | subui | andi | ori | xori | slli | srli | srai | seqi | snei | slti | sgti | slei
  | sgei => exact regImm_effect h
  | addf | subf | multf | divf => exact singleSingle_effect h
  | addd | subd | multd | divd => exact doubleDouble_effect h
  | eqf | nef | ltf | gtf | lef | gef => exact compareSingle_effect rfl h
  | eqd | ned | ltd | gtd | led | ged => exact compareDouble_effect rfl h
  | lb | lh | lw | lbu | lhu => exact loadInt_effect h
  | sb | sh | sw | sf => exact memWrite_effect rfl h
  | sd =>
    obtain ⟨pd, -, h⟩ := withOperand_next.mp h
    exact memWrite_effect rfl h
  | movs2i | movfp2i | lhi => exact next_advance_effect (.writeR ..) h
  | movf | movi2fp => exact next_advance_effect (.writeF ..) h
  | cvtf2i => exact next_advance_effect (.putInt ..) h
  | cvti2f => exact next_advance_effect (.putSingle ..) h
  | cvtf2d | cvti2d =>
    obtain ⟨pd, -, h⟩ := withOperand_next.mp h
    exact next_advance_effect (.putDouble ..) h
  | cvtd2f =>
    obtain ⟨ps, -, h⟩ := withOperand_next.mp h
    exact next_advance_effect (.putSingle ..) h
  | cvtd2i =>
    obtain ⟨ps, -, h⟩ := withOperand_next.mp h
    exact next_advance_effect (.putInt ..) h
  | movd =>
    obtain ⟨pd, -, h⟩ := withOperand_next.mp h
    obtain ⟨ps, -, h⟩ := withOperand_next.mp h
    exact next_advance_effect (.writePair ..) h
  | lf =>
    obtain ⟨v, -, h⟩ := withOperand_next.mp h
    exact next_advance_effect (.writeF ..) h
  | ld =>
    obtain ⟨pd, -, h⟩ := withOperand_next.mp h
    obtain ⟨v, -, h⟩ := withOperand_next.mp h
    exact next_advance_effect (.writePair ..) h
  | movi2s =>
    obtain rfl := Host.Outcome.next.inj h
    exact .movesToSpecial _ rfl
  | beqz | bnez | bfpt | bfpf => exact branch_effect rfl h
  | j | jr => exact next_jumpTo_effect rfl (.refl s) h
  | jal | jalr => exact next_jumpTo_effect rfl (.writeR ..) h
  | rfe =>
    obtain ⟨a, ha, rfl⟩ := State.returnFromTrap_next.mp h
    exact .returns ha
  | trap n => exact .traps h

/-- A trap changes no parameter, whatever answers it. -/
theorem State.takeTrap_params {s t : State} {n : Dest26} (h : s.takeTrap n = .next t) :
    t.params = s.params := by
  cases hs : s.saved with
  | some a => rw [State.takeTrap_nested hs] at h; cases h
  | none =>
    cases hm : s.params.trapMode with
    | vectored vec => rw [State.takeTrap_vectored hs hm] at h; cases h; rfl
    | environment =>
      cases ha : s.handedOver.serviceAnswer n with
      | halt => rw [State.takeTrap_halt hs hm ha] at h; cases h; rfl
      | resume ws =>
        rw [State.takeTrap_resume hs hm ha] at h
        cases h
        obtain ⟨-, -, -, hp, -⟩ := State.applyWrites_frame s.handedOver.countServed ws
        exact hp

namespace Effect
variable {i : Instr} {s t : State}

theorem params_eq (h : Effect s i t) : t.params = s.params := by
  cases h with
  | goesOn hu | transfers _ _ hu =>
    obtain ⟨-, -, -, -, -, hp, -⟩ := hu.keeps
    exact hp
  | stores _ hu =>
    obtain ⟨-, rfl⟩ := State.memWrite_ok.mp hu
    rfl
  | compares | movesToSpecial | returns => rfl
  | traps ht => exact State.takeTrap_params ht

theorem fpsr_eq (h : Effect s i t) (hn : ∀ n, i ≠ .trap n) (hi : i.isComparison = false) :
    t.fpsr = s.fpsr := by
  cases h with
  | goesOn hu | transfers _ _ hu => exact hu.fpsr
  | stores _ hu =>
    obtain ⟨-, rfl⟩ := State.memWrite_ok.mp hu
    rfl
  | compares _ hc => simp [hi] at hc
  | movesToSpecial | returns => rfl
  | traps => exact absurd rfl (hn _)

theorem memory_eq (h : Effect s i t) (hn : ∀ n, i ≠ .trap n) (hi : i.isStore = false) :
    SameMemory s t ∧ t.modified = s.modified := by
  cases h with
  | goesOn hu | transfers _ _ hu =>
    obtain ⟨hm, hmod, -⟩ := hu.keeps
    exact ⟨fun a => congrArg (Memory.read · a) hm, hmod⟩
  | stores hc => simp [hi] at hc
  | compares | movesToSpecial | returns => exact ⟨fun _ => rfl, rfl⟩
  | traps => exact absurd rfl (hn _)

theorem special_eq (h : Effect s i t) (hn : ∀ n, i ≠ .trap n) (hi : i.writesSpecial = false) :
    t.special = s.special := by
  cases h with
  | goesOn hu | transfers _ _ hu => exact hu.special
  | stores _ hu =>
    obtain ⟨-, rfl⟩ := State.memWrite_ok.mp hu
    rfl
  | movesToSpecial _ hc => simp [hi] at hc
  | compares | returns => rfl
  | traps => exact absurd rfl (hn _)

theorem saved_eq (h : Effect s i t) (hn : ∀ n, i ≠ .trap n) (hi : i ≠ .rfe) : t.saved = s.saved := by
  cases h with
  | goesOn hu | transfers _ _ hu =>
    obtain ⟨-, -, hs, -⟩ := hu.keeps
    exact hs
  | stores _ hu =>
    obtain ⟨-, rfl⟩ := State.memWrite_ok.mp hu
    rfl
  | compares | movesToSpecial => rfl
  | returns => exact absurd rfl hi
  | traps => exact absurd rfl (hn _)

theorem status_served_eq (h : Effect s i t) (hn : ∀ n, i ≠ .trap n) :
    t.status = s.status ∧ t.served = s.served := by
  cases h with
  | goesOn hu | transfers _ _ hu =>
    obtain ⟨-, -, -, hst, hsv, -⟩ := hu.keeps
    exact ⟨hst, hsv⟩
  | stores _ hu =>
    obtain ⟨-, rfl⟩ := State.memWrite_ok.mp hu
    exact ⟨rfl, rfl⟩
  | compares | movesToSpecial | returns => exact ⟨rfl, rfl⟩
  | traps => exact absurd rfl (hn _)

theorem pc_eq (h : Effect s i t) (hi : i.isTransfer = false) : t.pc = s.pc + 4 := by
  cases h with
  | goesOn hu => rw [State.advance_pc, hu.pc]
  | stores _ hu =>
    obtain ⟨-, rfl⟩ := State.memWrite_ok.mp hu
    rfl
  | compares | movesToSpecial => rfl
  | transfers _ hc => simp [hi] at hc
  | returns | traps => cases hi

end Effect

/-- Settles O58: each clause from the one list of effects. -/
theorem eachStateHasItsWriters : Obligations.EachStateHasItsWriters := by
  refine ⟨fun i s t h hn => ?_, fun i s t h => (exec_effect h).params_eq⟩
  have he := exec_effect h
  obtain ⟨hstatus, hserved⟩ := he.status_served_eq hn
  exact ⟨he.fpsr_eq hn, he.memory_eq hn, he.special_eq hn, he.saved_eq hn, hstatus, hserved, he.pc_eq⟩

end Sys2Proof.Machine

/-! Reads of registers nothing has written: the stop of 10_state.md R14, and that without such a read the values
nothing has written do not show. -/

namespace Sys2Proof.Machine

/-! ### The stop -/

/-- One unwritten source is enough, when the D fields name their pairs. -/
theorem stopsUnwritten_of_source {i : Instr} {s : State} {x : Source} (hd : s.namesDoubles i = true)
    (hx : x ∈ i.sources) (hw : s.hasWritten x = false) : StopsUnwritten i s := fun hf =>
  execChecked_stops (State.stopsUnwritten_iff.mpr ⟨hf, State.readsUnwritten_iff.mpr ⟨hd, x, hx, hw⟩⟩)

theorem State.hasWritten_int_eq_false {s : State} {i : RegNum} (hi : i ≠ 0) (hw : (s.r.get i).written = false) :
    s.hasWritten (.int i) = false := by
  simp [State.hasWritten, hi, hw]

/-- A double counts as written when both halves are. -/
theorem State.hasWritten_double {s : State} {k : RegNum} {p : Pair} (hp : s.pair k = .ok p) :
    s.hasWritten (.double k) = ((s.f.get p.hi).written && (s.f.get p.lo).written) := by
  simp only [State.hasWritten, hp]

theorem State.hasWritten_double_eq_false {s : State} {k : RegNum} {p : Pair} (hp : s.pair k = .ok p)
    (hw : (s.f.get p.hi).written = false ∨ (s.f.get p.lo).written = false) :
    s.hasWritten (.double k) = false := by
  rw [State.hasWritten_double hp, Bool.and_eq_false_iff]
  exact hw

/-! ### Where nothing unwritten is read -/

/-- If the D fields name their pairs, then what is read has been written. Over lists, so that the shape of a
family of instructions can state it of its own fields and sources. -/
def State.ReadsWritten (s : State) (fields : List RegNum) (sources : List Source) : Prop :=
  (∀ k ∈ fields, ∃ p, s.pair k = .ok p) → ∀ x ∈ sources, s.hasWritten x = true

theorem State.readsUnwritten_eq_false_iff {s : State} {i : Instr} :
    s.readsUnwritten i = false ↔ s.ReadsWritten i.doubleFields i.sources := by
  rw [Bool.eq_false_iff, ne_eq, State.readsUnwritten_iff, State.namesDoubles_iff]
  simp [State.ReadsWritten]

namespace State.ReadsWritten
variable {s : State} {k : RegNum} {ks : List RegNum} {x y : Source} {xs : List Source}

/-- One D field names its pair. -/
theorem pop {p : Pair} (hw : s.ReadsWritten (k :: ks) xs) (hp : s.pair k = .ok p) : s.ReadsWritten ks xs :=
  fun hks => hw (List.forall_mem_cons.mpr ⟨⟨p, hp⟩, hks⟩)

theorem first (hw : s.ReadsWritten [] (x :: xs)) : s.hasWritten x = true := hw nofun x (by simp)

theorem second (hw : s.ReadsWritten [] (x :: y :: xs)) : s.hasWritten y = true := hw nofun y (by simp)

end State.ReadsWritten

theorem State.Agrees.readSingle {s t : State} (h : s.Agrees t) {i : RegNum}
    (hw : s.hasWritten (.single i) = true) : t.readF i = s.readF i := h.readF hw

theorem State.Agrees.readFpsr {s t : State} (h : s.Agrees t) (hw : s.hasWritten .fpsr = true) :
    t.readFpsr = s.readFpsr := h.fpsr.2 hw

theorem State.Agrees.readSpecial {s t : State} (h : s.Agrees t) (hw : s.hasWritten .special = true) :
    t.readSpecial = s.readSpecial := h.special.2 hw

/-- A written double register reads the same. -/
theorem State.Agrees.readPair {s t : State} (h : s.Agrees t) {k : RegNum} {p : Pair} (hp : s.pair k = .ok p)
    (hw : s.hasWritten (.double k) = true) : t.readPair p = s.readPair p := by
  rw [State.hasWritten_double hp, Bool.and_eq_true] at hw
  obtain ⟨hhi, hlo⟩ := hw
  rw [State.readPair, State.readPair, h.readF hhi, h.readF hlo]

theorem State.Agrees.readAddress {s t : State} (h : s.Agrees t) {rs : RegNum} (imm : Imm16)
    (hw : s.hasWritten (.int rs) = true) : t.readAddress rs imm = s.readAddress rs imm := by
  rw [State.readAddress, State.readAddress, h.readR hw]

theorem State.Agrees.nextPc {s t : State} (h : s.Agrees t) : t.nextPc = s.nextPc :=
  congrArg (· + 4) h.pc

theorem State.Agrees.branchTarget {s t : State} (h : s.Agrees t) (imm : Imm16) :
    t.branchTarget imm = s.branchTarget imm := congrArg (· + _) h.nextPc

theorem State.Agrees.jumpTarget {s t : State} (h : s.Agrees t) (dest : Dest26) :
    t.jumpTarget dest = s.jumpTarget dest := congrArg (· + _) h.nextPc

theorem State.Agrees.linkValue {s t : State} (h : s.Agrees t) : t.linkValue = s.linkValue := by
  rw [State.linkValue, State.linkValue, h.nextPc, h.params]

/-! ### The outcomes of each shape agree -/

section Shapes
variable {s t : State}

theorem regReg_agrees (h : s.Agrees t) {op : Word → Word → Word} {rd rs rc : RegNum}
    (hw : s.ReadsWritten [] [.int rs, .int rc]) :
    OutcomesAgree (regReg op rd rs rc s) (regReg op rd rs rc t) := by
  rw [regReg, regReg, h.readR hw.first, h.readR hw.second]
  exact .next (h.writeR _ _).advance

theorem regRegDivide_agrees (h : s.Agrees t) {op : Word → Word → Word} {rd rs rc : RegNum}
    (hw : s.ReadsWritten [] [.int rs, .int rc]) :
    OutcomesAgree (regRegDivide op rd rs rc s) (regRegDivide op rd rs rc t) := by
  rw [regRegDivide, regRegDivide, h.readR hw.first, h.readR hw.second]
  split
  · exact .fault _
  · exact .next (h.writeR _ _).advance

theorem regImm_agrees (h : s.Agrees t) {op : Word → Word} {rd rs : RegNum}
    (hw : s.ReadsWritten [] [.int rs]) : OutcomesAgree (regImm op rd rs s) (regImm op rd rs t) := by
  rw [regImm, regImm, h.readR hw.first]
  exact .next (h.writeR _ _).advance

theorem singleSingle_agrees (h : s.Agrees t) {op : Word → Word → FpResult} {fd fs fc : RegNum}
    (hw : s.ReadsWritten [] [.single fs, .single fc]) :
    OutcomesAgree (singleSingle op fd fs fc s) (singleSingle op fd fs fc t) := by
  rw [singleSingle, singleSingle, h.readSingle hw.first, h.readSingle hw.second]
  exact .next (h.putSingle _ _).advance

theorem compareSingle_agrees (h : s.Agrees t) {holds : FpOrder → Bool} {fs fc : RegNum}
    (hw : s.ReadsWritten [] [.single fs, .single fc]) :
    OutcomesAgree (compareSingle holds fs fc s) (compareSingle holds fs fc t) := by
  rw [compareSingle, compareSingle, h.readSingle hw.first, h.readSingle hw.second]
  exact .next (h.writeFpsr _).advance

theorem doubleDouble_agrees (h : s.Agrees t) {op : DWord → DWord → FpResult} {dd ds dc : RegNum}
    (hw : s.ReadsWritten [dd, ds, dc] [.double ds, .double dc]) :
    OutcomesAgree (doubleDouble op dd ds dc s) (doubleDouble op dd ds dc t) :=
  .pair h _ fun pd hd => .pair h _ fun ps hs => .pair h _ fun pc hc => by
    have hw := ((hw.pop hd).pop hs).pop hc
    rw [h.readPair hs hw.first, h.readPair hc hw.second]
    exact .next (h.putDouble _ _).advance

theorem compareDouble_agrees (h : s.Agrees t) {holds : FpOrder → Bool} {ds dc : RegNum}
    (hw : s.ReadsWritten [ds, dc] [.double ds, .double dc]) :
    OutcomesAgree (compareDouble holds ds dc s) (compareDouble holds ds dc t) :=
  .pair h _ fun ps hs => .pair h _ fun pc hc => by
    have hw := (hw.pop hs).pop hc
    rw [h.readPair hs hw.first, h.readPair hc hw.second]
    exact .next (h.writeFpsr _).advance

theorem loadInt_agrees (h : s.Agrees t) {n : Nat} {ext : BitVec (8 * n) → Word} {rd rs : RegNum} {imm : Imm16}
    (hw : s.ReadsWritten [] [.int rs]) :
    OutcomesAgree (loadInt n ext rd rs imm s) (loadInt n ext rd rs imm t) := by
  rw [loadInt, loadInt, h.readAddress imm hw.first]
  exact .memRead h _ _ fun v => .next (h.writeR _ _).advance

theorem storeInt_agrees (h : s.Agrees t) {n : Nat} {cut : Word → BitVec (8 * n)} {rd rs : RegNum} {imm : Imm16}
    (hw : s.ReadsWritten [] [.int rs, .int rd]) :
    OutcomesAgree (storeInt n cut rd rs imm s) (storeInt n cut rd rs imm t) := by
  rw [storeInt, storeInt, h.readAddress imm hw.first, h.readR hw.second]
  exact .memWrite h _ _ _

theorem branch_agrees (h : s.Agrees t) {b c : Bool} {imm : Imm16} (hbc : c = b) :
    OutcomesAgree (branch b imm s) (branch c imm t) := by
  rw [branch_next.mpr rfl, branch_next.mpr rfl, hbc, h.branchTarget, h.nextPc]
  exact .next (h.jumpTo _)

theorem returnFromTrap_agrees (h : s.Agrees t) : OutcomesAgree s.returnFromTrap t.returnFromTrap := by
  cases hs : s.saved with
  | none =>
    rw [State.returnFromTrap, State.returnFromTrap, h.saved, hs]
    exact .fault _
  | some a =>
    rw [State.returnFromTrap_next.mpr ⟨a, hs, rfl⟩, State.returnFromTrap_next.mpr ⟨a, h.saved.trans hs, rfl⟩]
    exact .next ⟨h.r, h.f, h.fpsr, h.special, rfl, rfl, h.mem, h.modified, h.status, h.draws, h.served, h.params⟩

end Shapes

/-- Where no unwritten register is read, what nothing has written does not show, but to a service of which
nothing is known. -/
theorem exec_agrees {i : Instr} {s t : State} (hsvc : s.params.trapService ≠ .any)
    (hr : s.readsUnwritten i = false) (h : s.Agrees t) : OutcomesAgree (exec i s) (exec i t) := by
  have hw := State.readsUnwritten_eq_false_iff.mp hr
  unfold exec
  cases i with
  | sll | srl | sra | add | addu | sub | subu | and | or | xor | seq | sne | slt | sgt | sle | sge
  | mult | multu => exact regReg_agrees h hw
  | div | divu => exact regRegDivide_agrees h hw
  | addi | addui | subi | subui | andi | ori | xori | slli | srli | srai | seqi | snei | slti | sgti | slei
  | sgei => exact regImm_agrees h hw
  | addf | subf | multf | divf => exact singleSingle_agrees h hw
  | addd | subd | multd | divd => exact doubleDouble_agrees h hw
  | eqf | nef | ltf | gtf | lef | gef => exact compareSingle_agrees h hw
  | eqd | ned | ltd | gtd | led | ged => exact compareDouble_agrees h hw
  | lb | lh | lw | lbu | lhu => exact loadInt_agrees h hw
  | sb | sh | sw => exact storeInt_agrees h hw
  | sf =>
    simp only [execSf, h.readAddress _ hw.first, h.readSingle hw.second]
    exact .memWrite h _ _ _
  | sd =>
    exact .pair h _ fun pd hd => by
      have hw := hw.pop hd
      rw [h.readAddress _ hw.first, h.readPair hd hw.second]
      exact .memWrite h _ _ _
  | lf =>
    simp only [execLf, h.readAddress _ hw.first]
    exact .memRead h _ _ fun v => .next (h.writeF _ _).advance
  | ld =>
    exact .pair h _ fun pd hd => by
      rw [h.readAddress _ (hw.pop hd).first]
      exact .memRead h _ _ fun v => .next (h.writePair _ _).advance
  | movi2s =>
    simp only [execMovi2s, h.readR hw.first]
    exact .next (h.writeSpecial _).advance
  | movs2i =>
    simp only [execMovs2i, h.readSpecial hw.first]
    exact .next (h.writeR _ _).advance
  | movf =>
    simp only [execMovf, h.readSingle hw.first]
    exact .next (h.writeF _ _).advance
  | movd =>
    exact .pair h _ fun pd hd => .pair h _ fun ps hs => by
      rw [h.readPair hs ((hw.pop hd).pop hs).first]
      exact .next (h.writePair _ _).advance
  | movfp2i =>
    simp only [execMovfp2i, h.readSingle hw.first]
    exact .next (h.writeR _ _).advance
  | movi2fp =>
    simp only [execMovi2fp, h.readR hw.first]
    exact .next (h.writeF _ _).advance
  | cvtf2d =>
    exact .pair h _ fun pd hd => by
      rw [h.readSingle (hw.pop hd).first]
      exact .next (h.putDouble _ _).advance
  | cvtf2i =>
    simp only [execCvtf2i, h.readSingle hw.first]
    exact .next (h.putInt _ _).advance
  | cvtd2f =>
    exact .pair h _ fun ps hs => by
      rw [h.readPair hs (hw.pop hs).first]
      exact .next (h.putSingle _ _).advance
  | cvtd2i =>
    exact .pair h _ fun ps hs => by
      rw [h.readPair hs (hw.pop hs).first]
      exact .next (h.putInt _ _).advance
  | cvti2f =>
    simp only [execCvti2f, h.readR hw.first]
    exact .next (h.putSingle _ _).advance
  | cvti2d =>
    exact .pair h _ fun pd hd => by
      rw [h.readR (hw.pop hd).first]
      exact .next (h.putDouble _ _).advance
  | lhi => exact .next (h.writeR _ _).advance
  | beqz | bnez => exact branch_agrees h (by rw [h.readR hw.first])
  | bfpt | bfpf => exact branch_agrees h (by rw [h.readFpsr hw.first])
  | j =>
    simp only [execJ, h.jumpTarget]
    exact .next (h.jumpTo _)
  | jal =>
    simp only [execJal, h.jumpTarget, h.linkValue]
    exact .next ((h.writeR _ _).jumpTo _)
  | jr =>
    simp only [execJr, h.readR hw.first]
    exact .next (h.jumpTo _)
  | jalr =>
    simp only [execJalr, h.readR hw.first, h.linkValue]
    exact .next ((h.writeR _ _).jumpTo _)
  | rfe => exact returnFromTrap_agrees h
  | trap n => exact .trap h n hsvc

/-- A running state runs what it fetches and decodes, the check of the operand reads first. -/
theorem step_of_decode {s : State} {w : Word} {i : Instr} (hs : s.status = .running) (hf : s.fetch = .ok w)
    (hd : decode w = .ok i) : step s = execChecked i s := by
  simp only [step, hs, hf, hd]

/-! ### The named instructions -/

/-- An instruction without D fields stops at an unwritten source. -/
theorem stopsUnwritten_of_no_doubles {s : State} {x : Source} (hx : s.hasWritten x = false) (i : Instr)
    (hd : i.doubleFields = []) (hs : x ∈ i.sources) : StopsUnwritten i s :=
  stopsUnwritten_of_source (State.namesDoubles_iff.mpr (by simp [hd])) hs hx

/-- Settles O15: an instruction stops because one of its sources is unwritten; without an unwritten source it
runs alike in states that agree. -/
theorem unwrittenRegistersFault : Obligations.UnwrittenRegistersFault := by
  refine ⟨fun s rd rs rc h0 hw => ?_, fun s rd rs imm h0 hw => ?_, fun s imm hw => ?_, fun s rd hw => ?_,
    fun s rd fs fc hw => ?_, fun s dd ds pd ps hd hs hw => ?_, fun i s h => ?_,
    fun i s t hsvc hr h => exec_agrees hsvc hr h, fun s w i hs hf hd => step_of_decode hs hf hd⟩
  · have stop := stopsUnwritten_of_no_doubles (State.hasWritten_int_eq_false h0 hw)
    refine ⟨stop _ rfl ?_, stop _ rfl ?_, stop _ rfl ?_, stop _ rfl ?_⟩ <;> simp [Instr.sources]
  · have stop := stopsUnwritten_of_no_doubles (State.hasWritten_int_eq_false h0 hw)
    refine ⟨stop _ rfl ?_, stop _ rfl ?_, stop _ rfl ?_, stop _ rfl ?_, stop _ rfl ?_, stop _ rfl ?_,
      stop _ rfl ?_, stop _ rfl ?_⟩ <;> simp [Instr.sources]
  · have stop := stopsUnwritten_of_no_doubles (x := .fpsr) hw
    refine ⟨stop _ rfl ?_, stop _ rfl ?_⟩ <;> simp [Instr.sources]
  · exact stopsUnwritten_of_no_doubles (x := .special) hw _ rfl (by simp [Instr.sources])
  · have stop := stopsUnwritten_of_no_doubles (x := .single fs) hw
    refine ⟨stop _ rfl ?_, stop _ rfl ?_, stop _ rfl ?_, stop _ rfl ?_, stop _ rfl ?_, stop _ rfl ?_,
      stop _ rfl ?_⟩ <;> simp [Instr.sources]
  · have hx := State.hasWritten_double_eq_false hs hw
    constructor
    · exact stopsUnwritten_of_source (State.namesDoubles_iff.mpr (by simp [Instr.doubleFields, hd, hs]))
        (by simp [Instr.sources]) hx
    · exact stopsUnwritten_of_source (State.namesDoubles_iff.mpr (by simp [Instr.doubleFields, hd, hs]))
        (by simp [Instr.sources]) hx
  · refine execChecked_runs (Bool.eq_false_iff.mpr fun hstop => ?_)
    obtain ⟨hfaults, hreads⟩ := State.stopsUnwritten_iff.mp hstop
    rcases h with hu | hr
    · exact hu hfaults
    · rw [hreads] at hr
      cases hr

end Sys2Proof.Machine

/-! The fetch, and the step as fetch, decode, run (20_memory.md R38, 70_reset_and_hazards.md R360). -/

namespace Sys2Proof.Machine

/-! ### The four bytes of a word -/

/-- A word laid out in four bytes is the word (20_memory.md R38). -/
theorem wordOfBytes_byteOfWord (w : Word) :
    wordOfBytes (byteOfWord w 0) (byteOfWord w 1) (byteOfWord w 2) (byteOfWord w 3) = w := by
  simp only [wordOfBytes, byteOfWord]
  rw [BitVec.extractLsb'_append_extractLsb'_eq_extractLsb' (by rfl),
    BitVec.extractLsb'_append_extractLsb'_eq_extractLsb' (by rfl),
    BitVec.extractLsb'_append_extractLsb'_eq_extractLsb' (by rfl)]
  exact BitVec.extractLsb'_eq_self

/-- The bytes a word is made of, the most significant first. -/
theorem extract_wordOfBytes (b : Nat → Byte) {k : Nat} (hk : k < 4) :
    (wordOfBytes (b 0) (b 1) (b 2) (b 3)).extractLsb' (24 - 8 * k) 8 = b k := by
  unfold wordOfBytes
  match k with
  | 0 =>
    rw [Laws.extract_append_high _ _ _ _ (by omega), Laws.extract_append_high _ _ _ _ (by omega)]
    exact Laws.extract_append_left _ _
  | 1 =>
    rw [Laws.extract_append_high _ _ _ _ (by omega), Laws.extract_append_high _ _ _ _ (by omega)]
    exact Laws.extract_append_right _ _
  | 2 =>
    rw [Laws.extract_append_high _ _ _ _ (by omega)]
    exact Laws.extract_append_right _ _
  | 3 => exact Laws.extract_append_right _ _

/-! ### The checks of the fetch -/

section Fetch
variable {s : State}

/-- Some of the four bytes at pc is listed in `modified`. -/
theorem State.fetchTouchesModified_iff :
    s.fetchTouchesModified = true ↔ ∃ k, k < 4 ∧ s.pc.toNat + k ∈ s.modified := by
  simp only [State.fetchTouchesModified, List.any_eq_true, decide_eq_true_eq]
  constructor
  · rintro ⟨x, hx, hlow, hhigh⟩
    exact ⟨x - s.pc.toNat, by omega, by rwa [Nat.add_sub_cancel' hlow]⟩
  · rintro ⟨k, hk, hx⟩
    exact ⟨_, hx, by omega⟩

theorem State.fetch_misaligned (h : s.pc.toNat % 4 ≠ 0) : s.fetch = .error .fetchMisaligned := if_pos h

theorem State.fetch_outOfRange (ha : s.pc.toNat % 4 = 0) (hr : ¬ Params.InRange s.params s.pc.toNat 4) :
    s.fetch = .error .fetchOutOfRange := by
  rw [State.fetch, if_neg (not_not.mpr ha), if_pos hr]

theorem State.fetch_modified (ha : s.pc.toNat % 4 = 0) (hr : Params.InRange s.params s.pc.toNat 4)
    (hs : s.params.allowSmc = false) (hm : s.fetchTouchesModified = true) :
    s.fetch = .error .fetchModified := by
  rw [State.fetch, if_neg (not_not.mpr ha), if_neg (not_not.mpr hr), if_pos ⟨hs, hm⟩]

/-- A fetch succeeds exactly when its three checks pass, with the big-endian word at pc (20_memory.md R38). -/
theorem State.fetch_ok {w : Word} :
    s.fetch = .ok w ↔ (s.pc.toNat % 4 = 0 ∧ Params.InRange s.params s.pc.toNat 4 ∧
        ¬ (s.params.allowSmc = false ∧ s.fetchTouchesModified = true)) ∧
      wordOfBytes (s.mem.read s.pc.toNat) (s.mem.read (s.pc.toNat + 1)) (s.mem.read (s.pc.toNat + 2))
        (s.mem.read (s.pc.toNat + 3)) = w := by
  unfold State.fetch
  split
  next ha => exact ⟨nofun, fun h => absurd h.1.1 ha⟩
  next ha =>
  split
  next hr => exact ⟨nofun, fun h => absurd h.1.2.1 hr⟩
  next hr =>
  split
  next hm => exact ⟨nofun, fun h => absurd hm h.1.2.2⟩
  next hm =>
  rw [Except.ok.injEq]
  exact (and_iff_right ⟨not_not.mp ha, not_not.mp hr, hm⟩).symm

/-- Bytes that no store of the run has written, or that may be fetched all the same, pass the third check. -/
theorem State.fetch_unmodified
    (h : s.params.allowSmc = true ∨ ∀ k, k < 4 → s.pc.toNat + k ∉ s.modified) :
    ¬ (s.params.allowSmc = false ∧ s.fetchTouchesModified = true) := by
  rw [State.fetchTouchesModified_iff]
  rintro ⟨hs, k, hk, hx⟩
  rcases h with ha | hm
  · simp [ha] at hs
  · exact hm k hk hx

/-! ### The step -/

theorem step_of_fetch_error {k : Fault} (hs : s.status = .running) (hf : s.fetch = .error k) :
    step s = .fault k := by
  simp only [step, hs, hf]

/-- A step answers a next state when the run has ended, or from what it fetches, decodes and runs
(70_reset_and_hazards.md R360, R362). -/
theorem step_next {t : State} (h : step s = .next t) :
    t = s ∨ ∃ w i, s.fetch = .ok w ∧ decode w = .ok i ∧ execChecked i s = .next t := by
  unfold step at h
  cases hs : s.status with
  | halted | faulted =>
    rw [hs] at h
    exact .inl (Host.Outcome.next.inj h).symm
  | running =>
    cases hf : s.fetch with
    | error k => simp [hs, hf] at h
    | ok w =>
      cases hd : decode w with
      | error e => simp [hs, hf, hd] at h
      | ok i => exact .inr ⟨w, i, rfl, hd, by simpa only [hs, hf, hd] using h⟩

end Fetch

/-- Settles O10: the first three clauses are the three checks, each reached when those before it pass; the
word is made of the bytes at pc. -/
theorem fetchChecksInOrder : Obligations.FetchChecksInOrder := by
  refine ⟨fun s ha => State.fetch_misaligned ha, fun s ha hr => State.fetch_outOfRange ha (by omega),
    fun s ha hr hs hm => State.fetch_modified ha hr hs (State.fetchTouchesModified_iff.mpr hm),
    fun s ha hr hm => ?_, fun s k hs hf => ?_⟩
  · exact ⟨_, State.fetch_ok.mpr ⟨⟨ha, hr, State.fetch_unmodified hm⟩, rfl⟩,
      fun k hk => extract_wordOfBytes (fun j => s.mem.read (s.pc.toNat + j)) hk⟩
  · have hstep := step_of_fetch_error hs hf
    exact ⟨hstep, by rw [runStep, hstep]; rfl⟩

open Laws in
/-- The word of an instruction decodes to the instruction, whatever its operands (30_encoding.md R59, R60). -/
theorem decode_encode : ∀ i : Instr, decode (encode i) = .ok i
  | .sll .. => EncodeDecode.sll .. | .srl .. => EncodeDecode.srl .. | .sra .. => EncodeDecode.sra ..
  | .add .. => EncodeDecode.add .. | .addu .. => EncodeDecode.addu .. | .sub .. => EncodeDecode.sub ..
  | .subu .. => EncodeDecode.subu .. | .and .. => EncodeDecode.and .. | .or .. => EncodeDecode.or ..
  | .xor .. => EncodeDecode.xor .. | .seq .. => EncodeDecode.seq .. | .sne .. => EncodeDecode.sne ..
  | .slt .. => EncodeDecode.slt .. | .sgt .. => EncodeDecode.sgt .. | .sle .. => EncodeDecode.sle ..
  | .sge .. => EncodeDecode.sge .. | .movi2s .. => EncodeDecode.movi2s .. | .movs2i .. => EncodeDecode.movs2i ..
  | .movf .. => EncodeDecode.movf .. | .movd .. => EncodeDecode.movd .. | .movfp2i .. => EncodeDecode.movfp2i ..
  | .movi2fp .. => EncodeDecode.movi2fp .. | .addf .. => EncodeDecode.addf .. | .subf .. => EncodeDecode.subf ..
  | .multf .. => EncodeDecode.multf .. | .divf .. => EncodeDecode.divf .. | .addd .. => EncodeDecode.addd ..
  | .subd .. => EncodeDecode.subd .. | .multd .. => EncodeDecode.multd .. | .divd .. => EncodeDecode.divd ..
  | .cvtf2d .. => EncodeDecode.cvtf2d .. | .cvtf2i .. => EncodeDecode.cvtf2i ..
  | .cvtd2f .. => EncodeDecode.cvtd2f .. | .cvtd2i .. => EncodeDecode.cvtd2i ..
  | .cvti2f .. => EncodeDecode.cvti2f .. | .cvti2d .. => EncodeDecode.cvti2d ..
  | .mult .. => EncodeDecode.mult .. | .div .. => EncodeDecode.div .. | .eqf .. => EncodeDecode.eqf ..
  | .nef .. => EncodeDecode.nef .. | .ltf .. => EncodeDecode.ltf .. | .gtf .. => EncodeDecode.gtf ..
  | .lef .. => EncodeDecode.lef .. | .gef .. => EncodeDecode.gef .. | .multu .. => EncodeDecode.multu ..
  | .divu .. => EncodeDecode.divu .. | .eqd .. => EncodeDecode.eqd .. | .ned .. => EncodeDecode.ned ..
  | .ltd .. => EncodeDecode.ltd .. | .gtd .. => EncodeDecode.gtd .. | .led .. => EncodeDecode.led ..
  | .ged .. => EncodeDecode.ged .. | .j .. => EncodeDecode.j .. | .jal .. => EncodeDecode.jal ..
  | .beqz .. => EncodeDecode.beqz .. | .bnez .. => EncodeDecode.bnez .. | .bfpt .. => EncodeDecode.bfpt ..
  | .bfpf .. => EncodeDecode.bfpf .. | .addi .. => EncodeDecode.addi .. | .addui .. => EncodeDecode.addui ..
  | .subi .. => EncodeDecode.subi .. | .subui .. => EncodeDecode.subui .. | .andi .. => EncodeDecode.andi ..
  | .ori .. => EncodeDecode.ori .. | .xori .. => EncodeDecode.xori .. | .lhi .. => EncodeDecode.lhi ..
  | .rfe => EncodeDecode.rfe | .trap .. => EncodeDecode.trap .. | .jr .. => EncodeDecode.jr ..
  | .jalr .. => EncodeDecode.jalr .. | .slli .. => EncodeDecode.slli .. | .srli .. => EncodeDecode.srli ..
  | .srai .. => EncodeDecode.srai .. | .seqi .. => EncodeDecode.seqi .. | .snei .. => EncodeDecode.snei ..
  | .slti .. => EncodeDecode.slti .. | .sgti .. => EncodeDecode.sgti .. | .slei .. => EncodeDecode.slei ..
  | .sgei .. => EncodeDecode.sgei .. | .lb .. => EncodeDecode.lb .. | .lh .. => EncodeDecode.lh ..
  | .lw .. => EncodeDecode.lw .. | .lbu .. => EncodeDecode.lbu .. | .lhu .. => EncodeDecode.lhu ..
  | .lf .. => EncodeDecode.lf .. | .ld .. => EncodeDecode.ld .. | .sb .. => EncodeDecode.sb ..
  | .sh .. => EncodeDecode.sh .. | .sw .. => EncodeDecode.sw .. | .sf .. => EncodeDecode.sf ..
  | .sd .. => EncodeDecode.sd ..

/-- Settles O8: the checks of the fetch pass, the bytes at pc make up the word of the instruction, and decoding
undoes encoding. -/
theorem stepRunsTheInstructionAtPc : Obligations.StepRunsTheInstructionAtPc := by
  intro s i hs ha hr hm hbytes
  have hfetch : s.fetch = .ok (encode i) := by
    refine State.fetch_ok.mpr ⟨⟨ha, hr, State.fetch_unmodified hm⟩, ?_⟩
    have h0 := hbytes 0 (by decide)
    rw [Nat.add_zero] at h0
    rw [h0, hbytes 1 (by decide), hbytes 2 (by decide), hbytes 3 (by decide), wordOfBytes_byteOfWord]
  exact step_of_decode hs hfetch (decode_encode i)

end Sys2Proof.Machine

/-! The invariant of the machine, kept by every step (20_memory.md R30, 10_state.md R11, 47_trap_rfe.md R220,
60_exceptions.md R302). -/

namespace Sys2Proof.Machine

/-- The address after an aligned one is aligned, also where it wraps to 0. -/
theorem aligned_add_four {a : Word} (h : a.toNat % 4 = 0) : (a + 4).toNat % 4 = 0 := by
  bv_omega

/-- A store leaves `modified` alone or adds its own bytes (20_memory.md R45). -/
theorem State.memWrite_modified {s t : State} {a : Word} {n : Nat} {v : BitVec (8 * n)}
    (h : s.memWrite a n v = .ok t) :
    t.modified = s.modified ∨ t.modified = addAddrs s.modified a.toNat n := by
  obtain ⟨-, rfl⟩ := State.memWrite_ok.mp h
  exact ite_eq_or_eq _ _ _

namespace State.Inv
variable {s t : State}

/-! ### The updates keep the invariant -/

theorem keeps (h : s.Inv) (k : KeepsMachine s t) : t.Inv := by
  obtain ⟨hmem, hmod, hsaved, hstatus, -, hp, h0⟩ := k
  constructor
  · simpa only [hp] using h.params
  · simpa only [hmem] using h.memory_canonical
  · simpa only [hmem, hp] using h.memory_exists
  · simpa only [hmod] using h.modified_rising
  · simpa only [hmod, hp] using h.modified_exists
  · simpa only [h0] using h.r0_constant
  · simpa only [hsaved] using h.resume_aligned
  · simpa only [hstatus, hp, hsaved] using h.environment_unsaved

theorem jumpTo (h : s.Inv) (a : Word) : (s.jumpTo a).Inv := h.keeps (keeps_jumpTo s a)

theorem advance (h : s.Inv) : s.advance.Inv := h.keeps (keeps_advance s)

/-- A run that has ended runs no program code, whatever is saved. -/
theorem afterFault (h : s.Inv) (k : FaultKind) : (s.afterFault k).Inv :=
  { h with environment_unsaved := nofun }

/-- A return goes anywhere and saves nothing. -/
theorem returned (h : s.Inv) (a : Word) : State.Inv { s with pc := a, saved := none } :=
  { h with resume_aligned := nofun, environment_unsaved := fun _ _ => rfl }

/-- A store lists the bytes its range check has found to exist. -/
theorem memWrite {a : Word} {n : Nat} {v : BitVec (8 * n)} (h : s.Inv) (hw : s.memWrite a n v = .ok t) :
    t.Inv := by
  have hmod := State.memWrite_modified hw
  obtain ⟨⟨-, hlow, hhigh⟩, rfl⟩ := State.memWrite_ok.mp hw
  have inside : ∀ x, a.toNat ≤ x ∧ x < a.toNat + n → Params.InRange s.params x 1 := fun x hx => by
    constructor <;> omega
  exact { h with
    memory_canonical := Memory.wf_writeBE _ _ _ _ h.memory_canonical
    memory_exists := fun c hc => (Memory.mem_writeBE hc).elim (inside c.1) (h.memory_exists c)
    modified_rising := by
      rcases hmod with e | e <;> rw [e]
      · exact h.modified_rising
      · exact addrsRising_addAddrs _ _ _ h.modified_rising
    modified_exists := by
      rcases hmod with e | e <;> rw [e]
      · exact h.modified_exists
      · exact fun x hx => (mem_addAddrs.mp hx).elim (inside x) (h.modified_exists x) }

/-! ### The trap -/

/-- After Resume the service's writes are made and nothing is saved (60_exceptions.md R301). The state handed over
has its resume address saved while the run goes on, so it need not meet the invariant; its storage does. -/
theorem resumed (h : s.Inv) (ws : List HostWrite) (a : Word) :
    State.Inv { s.handedOver.countServed.applyWrites ws with pc := a, saved := none } := by
  obtain ⟨-, -, -, hp, hmod, -, -, h0⟩ := State.applyWrites_frame s.handedOver.countServed ws
  obtain ⟨hwf, hexists⟩ :=
    State.applyWrites_memory s.handedOver.countServed ws h.memory_canonical h.memory_exists
  constructor <;> dsimp only
  · rw [hp]
    exact h.params
  · exact hwf
  · rw [hp]
    exact hexists
  · rw [hmod]
    exact h.modified_rising
  · rw [hmod, hp]
    exact h.modified_exists
  · rw [h0]
    exact h.r0_constant
  · exact nofun
  · exact fun _ _ => rfl

/-- A trap taken from an aligned pc saves an aligned address, and leaves it saved only where the mode is
vectored or the run has ended (60_exceptions.md R300 to R302). -/
theorem takeTrap {n : Dest26} (h : s.Inv) (hpc : s.pc.toNat % 4 = 0) (ht : s.takeTrap n = .next t) :
    t.Inv := by
  have aligned : ∀ a, some (s.pc + 4) = some a → a.toNat % 4 = 0 := fun a ha =>
    Option.some.inj ha ▸ aligned_add_four hpc
  cases hs : s.saved with
  | some a =>
    rw [State.takeTrap_nested hs] at ht
    cases ht
  | none =>
    cases hm : s.params.trapMode with
    | vectored vec =>
      rw [State.takeTrap_vectored hs hm] at ht
      cases ht
      exact { h with
        resume_aligned := aligned
        environment_unsaved := fun _ he => by simp [hm] at he }
    | environment =>
      cases ha : s.handedOver.serviceAnswer n with
      | halt =>
        rw [State.takeTrap_halt hs hm ha] at ht
        cases ht
        exact { h with resume_aligned := aligned, environment_unsaved := nofun }
      | resume ws =>
        rw [State.takeTrap_resume hs hm ha] at ht
        cases ht
        exact h.resumed ws _

/-! ### Every step -/

/-- Only TRAP needs the alignment of pc, for the resume address. -/
theorem effect {i : Instr} (h : s.Inv) (hpc : s.pc.toNat % 4 = 0) (he : Effect s i t) : t.Inv := by
  cases he with
  | goesOn hu => exact (h.keeps hu.keeps).advance
  | compares b => exact (h.keeps (keeps_writeFpsr s b)).advance
  | stores _ hw => exact (h.memWrite hw).advance
  | movesToSpecial v => exact (h.keeps (keeps_writeSpecial s v)).advance
  | transfers a _ hu => exact (h.keeps hu.keeps).jumpTo a
  | returns => exact h.returned _
  | traps ht => exact h.takeTrap hpc ht

theorem execChecked {i : Instr} (h : s.Inv) (hpc : s.pc.toNat % 4 = 0)
    (he : execChecked i s = .next t) : t.Inv := by
  rcases execChecked_cases i s with ⟨-, hstop⟩ | ⟨-, hrun⟩
  · obtain rfl := Host.Outcome.next.inj (hstop.symm.trans he)
    exact h.afterFault _
  · exact h.effect hpc (exec_effect (hrun.symm.trans he))

end State.Inv

/-- Settles O56: a run that has ended stays where it is; else the fetch has found pc aligned, and the checked
instruction keeps the invariant. -/
theorem stepKeepsTheInvariant : Obligations.StepKeepsTheInvariant := by
  intro s t h hstep
  rcases step_next hstep with rfl | ⟨w, i, hfetch, -, hexec⟩
  · exact h
  · obtain ⟨⟨hpc, -⟩, -⟩ := State.fetch_ok.mp hfetch
    exact h.execChecked hpc hexec

end Sys2Proof.Machine

/-! Data accesses: their two checks, what a narrower read sees of a wider write, and a load after a store
(20_memory.md R33, R35, R36, R41). -/

namespace Sys2Proof.Machine

/-! ### The checks of a data access -/

section Checks
variable {s : State} {a : Word} {n : Nat} {k : Fault}

theorem State.checkAccess_misaligned (h : a.toNat % n ≠ 0) : s.checkAccess a n = .error .dataMisaligned :=
  if_pos h

theorem State.checkAccess_outOfRange (ha : a.toNat % n = 0) (hr : ¬ Params.InRange s.params a.toNat n) :
    s.checkAccess a n = .error .dataOutOfRange := by
  rw [State.checkAccess, if_neg (not_not.mpr ha), if_neg hr]

/-- A read raises the fault of its checks. -/
theorem State.memRead_error (h : s.checkAccess a n = .error k) : s.memRead a n = .error k := by
  rw [State.memRead, h]

/-- A write raises the fault of its checks. -/
theorem State.memWrite_error (h : s.checkAccess a n = .error k) (v : BitVec (8 * n)) :
    s.memWrite a n v = .error k := by
  rw [State.memWrite, h]

/-- An aligned block that begins below an aligned bound ends there at the latest. -/
theorem add_le_of_aligned {x y : Nat} (hx : n ∣ x) (hy : n ∣ y) (h : x < y) : x + n ≤ y := by
  have := Nat.le_of_dvd (Nat.sub_pos_of_lt h) (Nat.dvd_sub hy hx)
  omega

/-- The bounds of memory are multiples of 8, so an aligned access is inside as a whole or outside as a whole
(00_scope.md R4, 20_memory.md R36). -/
theorem Params.outside_of_not_inRange {p : Params} {x : Nat} (hp : p.Ok) (hn : n ∣ 8) (ha : a.toNat % n = 0)
    (hr : ¬ Params.InRange p a.toNat n) (hlow : a.toNat ≤ x) (hhigh : x < a.toNat + n) :
    ¬ Params.InRange p x 1 := by
  obtain ⟨hbase, hsize, -⟩ := hp
  have hna : n ∣ a.toNat := Nat.dvd_of_mod_eq_zero ha
  have hbase : n ∣ p.memBase.toNat := hn.trans (Nat.dvd_of_mod_eq_zero hbase)
  have hend : n ∣ p.memBase.toNat + p.memSize := Nat.dvd_add hbase (hn.trans (Nat.dvd_of_mod_eq_zero hsize))
  have below : a.toNat < p.memBase.toNat → a.toNat + n ≤ p.memBase.toNat := add_le_of_aligned hna hbase
  have above : a.toNat < p.memBase.toNat + p.memSize → a.toNat + n ≤ p.memBase.toNat + p.memSize :=
    add_le_of_aligned hna hend
  omega

end Checks

/-- Settles O42: each clause is one outcome of the checks, which reads and writes share. -/
theorem dataAccessChecks : Obligations.DataAccessChecks := by
  intro s a n hn
  refine ⟨fun ha => ?_, fun ha hr => ?_, fun ha hlow hhigh => ?_⟩
  · have hc := State.checkAccess_misaligned (s := s) ha
    exact ⟨State.memRead_error hc, State.memWrite_error hc⟩
  · have hout : ¬ Params.InRange s.params a.toNat n := by omega
    have hc := State.checkAccess_outOfRange ha hout
    have h8 : ∀ n ∈ [1, 2, 4, 8], n ∣ 8 := by decide
    exact ⟨State.memRead_error hc, State.memWrite_error hc,
      fun hp x hx hx' => Params.outside_of_not_inRange hp (h8 n hn) ha hout hx hx'⟩
  · exact ⟨⟨_, State.memRead_ok.mpr ⟨⟨ha, hlow, hhigh⟩, rfl⟩⟩,
      fun v => ⟨_, State.memWrite_ok.mpr ⟨⟨ha, hlow, hhigh⟩, rfl⟩⟩⟩

/-! ### A part of what was stored -/

/-- The `j` bytes at offset `k` of a stored number: it is big-endian, so the bytes after them are the low ones
(20_memory.md R32). -/
theorem Memory.readBE_part_writeBE (m : Memory) (a v : Nat) {n k j : Nat} (hm : m.wf = true) (h : k + j ≤ n) :
    (m.writeBE a n v).readBE (a + k) j = v / 256 ^ (n - k - j) % 256 ^ j := by
  induction j generalizing k with
  | zero => simp [Memory.readBE, Nat.mod_one]
  | succ j ih =>
    have hquot : v / 256 ^ (n - 1 - k) = v / 256 ^ (n - k - (j + 1)) / 256 ^ j := by
      rw [Nat.div_div_eq_div_mul, ← pow_add]
      congr 2
      omega
    rw [Memory.readBE, Memory.read_writeBE_inside _ _ hm (by omega), Nat.add_assoc, ih (by omega),
      BitVec.toNat_ofNat, hquot, show n - (k + 1) - j = n - k - (j + 1) by omega, Nat.add_comm,
      Nat.mul_comm]
    exact Nat.mod_pow_succ.symm

/-- A narrower access inside the bytes just written reads its part of the value (20_memory.md R33). -/
theorem State.memRead_part_memWrite {s t : State} {a : Word} {n k j : Nat} {v : BitVec (8 * n)}
    (hw : s.mem.wf = true) (h : s.memWrite a n v = .ok t) (hn : n ∣ 2 ^ 32) (hjn : j ∣ n) (hjk : j ∣ k)
    (hk : k + j ≤ n) :
    t.memRead (a + BitVec.ofNat 32 k) j = .ok (v.extractLsb' (8 * (n - k - j)) (8 * j)) := by
  obtain ⟨⟨ha, hlow, hhigh⟩, rfl⟩ := State.memWrite_ok.mp h
  have hna : n ∣ a.toNat := Nat.dvd_of_mod_eq_zero ha
  have hj : 0 < j := Nat.pos_of_dvd_of_pos (hjn.trans hn) (by norm_num)
  have hnowrap : a.toNat + n ≤ 2 ^ 32 := add_le_of_aligned hna hn a.isLt
  have haddr : (a + BitVec.ofNat 32 k).toNat = a.toNat + k := by
    rw [BitVec.toNat_add, BitVec.toNat_ofNat, Nat.mod_eq_of_lt (a := k) (by omega),
      Nat.mod_eq_of_lt (by omega)]
  refine State.memRead_ok.mpr ⟨?_, ?_⟩ <;> rw [haddr]
  · exact ⟨Nat.mod_eq_zero_of_dvd (Nat.dvd_add (hjn.trans hna) hjk), by constructor <;> dsimp only <;> omega⟩
  · dsimp only
    rw [Memory.readBE_part_writeBE _ _ _ hw hk]
    apply BitVec.eq_of_toNat_eq
    simp [BitVec.extractLsb'_toNat, Nat.shiftRight_eq_div_pow, Nat.pow_mul]

/-- Settles O41: the four claims are the general one at widths 4 and 8. -/
theorem narrowReadsOfWideWrites : Obligations.NarrowReadsOfWideWrites := by
  have h4 : 4 ∣ 2 ^ 32 := by decide
  have h8 : 8 ∣ 2 ^ 32 := by decide
  refine ⟨fun s t a v hw h => ⟨fun k hk => ?_, fun j hj => ?_⟩, fun s t a v hw h => ⟨?_, ?_⟩⟩
  · have hbyte := State.memRead_part_memWrite (k := k) (j := 1) hw h h4 (by decide) (one_dvd k) (by omega)
    rwa [show 8 * (4 - k - 1) = 24 - 8 * k by omega] at hbyte
  · have hhalf := State.memRead_part_memWrite (k := 2 * j) (j := 2) hw h h4 (by decide) (dvd_mul_right 2 j)
      (by omega)
    rwa [show 8 * (4 - 2 * j - 2) = 16 - 16 * j by omega] at hhalf
  · have hhigh := State.memRead_part_memWrite (k := 0) (j := 4) hw h h8 (by decide) (dvd_zero 4) (by decide)
    rwa [BitVec.add_zero] at hhigh
  · exact State.memRead_part_memWrite (k := 4) (j := 4) hw h h8 (by decide) (dvd_refl 4) (by decide)

/-! ### A load after a store -/

/-- pc moving on changes no read of memory. -/
theorem State.memRead_advance (s : State) (a : Word) (n : Nat) : s.advance.memRead a n = s.memRead a n := rfl

/-- A store moves no address operand. -/
theorem State.readAddress_memWrite {s t : State} {a : Word} {n : Nat} {v : BitVec (8 * n)}
    (h : s.memWrite a n v = .ok t) (rs : RegNum) (imm : Imm16) :
    t.readAddress rs imm = s.readAddress rs imm := by
  obtain ⟨-, rfl⟩ := State.memWrite_ok.mp h
  rfl

/-- After a store that completed, a load from the same operands goes on with the value stored. -/
theorem load_after_store {s t : State} {n : Nat} {v : BitVec (8 * n)} {rs : RegNum} {imm : Imm16}
    {load : BitVec (8 * n) → StepOutcome} (hw : s.mem.wf = true)
    (h : (withOperand (s.memWrite (s.readAddress rs imm) n v) fun u => .next u.advance) = .next t) :
    withOperand (t.memRead (t.readAddress rs imm) n) load = load v := by
  obtain ⟨u, hu, h⟩ := withOperand_next.mp h
  obtain rfl := Host.Outcome.next.inj h
  have haddr : u.advance.readAddress rs imm = s.readAddress rs imm := State.readAddress_memWrite hu rs imm
  rw [haddr, State.memRead_advance, State.memRead_memWrite hw hu, withOperand_ok]

theorem exec_ld_of_pair {s : State} {rd rs : RegNum} {imm : Imm16} {p : Pair} (hp : s.pair rd = .ok p) :
    exec (.ld rd rs imm) s = withOperand (s.memRead (s.readAddress rs imm) 8) fun v =>
      .next (s.writePair p v).advance := by
  rw [exec, execLd, hp, withOperand_ok]

theorem exec_sd_of_pair {s : State} {rd rs : RegNum} {imm : Imm16} {p : Pair} (hp : s.pair rd = .ok p) :
    exec (.sd rd rs imm) s = withOperand (s.memWrite (s.readAddress rs imm) 8 (s.readPair p)) fun u =>
      .next u.advance := by
  rw [exec, execSd, hp, withOperand_ok]

/-- Settles O48: a load goes on with the value stored, so the register it writes holds again what the store
read. -/
theorem loadAfterStoreRestores : Obligations.LoadAfterStoreRestores := by
  intro s t rd rs imm hw
  refine ⟨fun h => ⟨_, load_after_store hw h, ?_⟩, fun h => ⟨_, load_after_store hw h, ?_⟩, fun p hp h => ?_⟩
  · rw [State.readR_advance, State.readR_writeR, if_pos rfl]
    split
    next h0 => rw [h0, State.readR_zero]
    next => rfl
  · rw [State.readF_advance, State.readF_writeF, if_pos rfl]
  · have hne := DregField.pair_hi_ne_lo hp
    have ht : t.pair rd = .ok p := by
      rw [State.pair, (exec_effect h).params_eq]
      exact hp
    rw [exec_sd_of_pair hp] at h
    refine ⟨_, (exec_ld_of_pair ht).trans (load_after_store hw h), ?_, ?_⟩
    · rw [State.readF_advance, State.readF_writePair, if_neg hne, if_pos rfl]
      exact Laws.extract_append_left _ _
    · rw [State.readF_advance, State.readF_writePair, if_pos rfl]
      exact Laws.extract_append_right _ _

end Sys2Proof.Machine

/-! The encoding: a word is its fields, which of them an instruction uses, and the words that are no instruction
(30_encoding.md R50 to R66). -/

namespace Sys2Proof.Machine

/-! ### A word is its fields -/

/-- The fields of format R make up the word (30_encoding.md R53). -/
theorem packR_fields (w : Word) : packR (opField w) (fieldXs w) (fieldXc w) (fieldXdR w) (funcField w) = w := by
  simp only [packR, opField, fieldXs, fieldXc, fieldXdR, funcField]
  rw [BitVec.extractLsb'_append_extractLsb'_eq_extractLsb' (by rfl),
    BitVec.extractLsb'_append_extractLsb'_eq_extractLsb' (by rfl),
    BitVec.extractLsb'_append_extractLsb'_eq_extractLsb' (by rfl),
    BitVec.extractLsb'_append_extractLsb'_eq_extractLsb' (by rfl)]
  exact BitVec.extractLsb'_eq_self

/-- The fields of format I make up the word (30_encoding.md R54). -/
theorem packI_fields (w : Word) : packI (opField w) (fieldXs w) (fieldXdI w) (immField w) = w := by
  simp only [packI, opField, fieldXs, fieldXdI, immField]
  rw [BitVec.extractLsb'_append_extractLsb'_eq_extractLsb' (by rfl),
    BitVec.extractLsb'_append_extractLsb'_eq_extractLsb' (by rfl),
    BitVec.extractLsb'_append_extractLsb'_eq_extractLsb' (by rfl)]
  exact BitVec.extractLsb'_eq_self

/-- The fields of format J make up the word (30_encoding.md R55). -/
theorem packJ_fields (w : Word) : packJ (opField w) (destField w) = w := by
  simp only [packJ, opField, destField]
  rw [BitVec.extractLsb'_append_extractLsb'_eq_extractLsb' (by rfl)]
  exact BitVec.extractLsb'_eq_self

section Fields
variable {w : Word} {op : BitVec 6} {s c d : RegNum} {f : BitVec 11} {imm : Imm16} {dest : Dest26}

theorem eq_packR_iff : w = packR op s c d f ↔
    opField w = op ∧ fieldXs w = s ∧ fieldXc w = c ∧ fieldXdR w = d ∧ funcField w = f := by
  constructor
  · rintro rfl
    simp only [Laws.opField_packR, Laws.fieldXs_packR, Laws.fieldXc_packR, Laws.fieldXdR_packR,
      Laws.funcField_packR, and_self]
  · rintro ⟨rfl, rfl, rfl, rfl, rfl⟩
    exact (packR_fields w).symm

theorem eq_packI_iff : w = packI op s d imm ↔
    opField w = op ∧ fieldXs w = s ∧ fieldXdI w = d ∧ immField w = imm := by
  constructor
  · rintro rfl
    simp only [Laws.opField_packI, Laws.fieldXs_packI, Laws.fieldXdI_packI, Laws.immField_packI, and_self]
  · rintro ⟨rfl, rfl, rfl, rfl⟩
    exact (packI_fields w).symm

theorem eq_packJ_iff : w = packJ op dest ↔ opField w = op ∧ destField w = dest := by
  constructor
  · rintro rfl
    simp only [Laws.opField_packJ, Laws.destField_packJ, and_self]
  · rintro ⟨rfl, rfl⟩
    exact (packJ_fields w).symm

end Fields

/-! ### Words under a mask

A masked word is a canonical word exactly when the fields the mask keeps agree. -/

/-- A field the mask keeps. -/
theorem extract_masked_kept {w m : Word} {i k : Nat} (h : m.extractLsb' i k = BitVec.allOnes k) :
    (w &&& m).extractLsb' i k = w.extractLsb' i k := by
  rw [BitVec.extractLsb'_and, h, BitVec.and_allOnes]

/-- A field the mask drops. -/
theorem extract_masked_dropped {w m : Word} {i k : Nat} (h : m.extractLsb' i k = 0) :
    (w &&& m).extractLsb' i k = 0 := by
  rw [BitVec.extractLsb'_and, h]
  exact BitVec.and_zero

section Masks
variable {w : Word} {op : BitVec 6} {s c d : RegNum} {f : BitVec 11} {imm : Imm16} {dest : Dest26}

theorem masked_packR : w &&& 0xFFFFFFFF#32 = packR op s c d f ↔
    opField w = op ∧ fieldXs w = s ∧ fieldXc w = c ∧ fieldXdR w = d ∧ funcField w = f := by
  simp (disch := decide) only [eq_packR_iff, opField, fieldXs, fieldXc, fieldXdR, funcField, extract_masked_kept]

theorem masked_packR_noXd : w &&& 0xFFFF07FF#32 = packR op s c 0 f ↔
    opField w = op ∧ fieldXs w = s ∧ fieldXc w = c ∧ funcField w = f := by
  simp (disch := decide) only [eq_packR_iff, opField, fieldXs, fieldXc, fieldXdR, funcField, extract_masked_kept,
    extract_masked_dropped, BitVec.toFin_zero, true_and]

theorem masked_packR_noXc : w &&& 0xFFE0FFFF#32 = packR op s 0 d f ↔
    opField w = op ∧ fieldXs w = s ∧ fieldXdR w = d ∧ funcField w = f := by
  simp (disch := decide) only [eq_packR_iff, opField, fieldXs, fieldXc, fieldXdR, funcField, extract_masked_kept,
    extract_masked_dropped, BitVec.toFin_zero, true_and]

theorem masked_packR_onlyXs : w &&& 0xFFE007FF#32 = packR op s 0 0 f ↔
    opField w = op ∧ fieldXs w = s ∧ funcField w = f := by
  simp (disch := decide) only [eq_packR_iff, opField, fieldXs, fieldXc, fieldXdR, funcField, extract_masked_kept,
    extract_masked_dropped, BitVec.toFin_zero, true_and]

theorem masked_packR_onlyXd : w &&& 0xFC00FFFF#32 = packR op 0 0 d f ↔
    opField w = op ∧ fieldXdR w = d ∧ funcField w = f := by
  simp (disch := decide) only [eq_packR_iff, opField, fieldXs, fieldXc, fieldXdR, funcField, extract_masked_kept,
    extract_masked_dropped, BitVec.toFin_zero, true_and]

theorem masked_packI : w &&& 0xFFFFFFFF#32 = packI op s d imm ↔
    opField w = op ∧ fieldXs w = s ∧ fieldXdI w = d ∧ immField w = imm := by
  simp (disch := decide) only [eq_packI_iff, opField, fieldXs, fieldXdI, immField, extract_masked_kept]

theorem masked_packI_noXd : w &&& 0xFFE0FFFF#32 = packI op s 0 imm ↔
    opField w = op ∧ fieldXs w = s ∧ immField w = imm := by
  simp (disch := decide) only [eq_packI_iff, opField, fieldXs, fieldXdI, immField, extract_masked_kept,
    extract_masked_dropped, BitVec.toFin_zero, true_and]

theorem masked_packI_noXs : w &&& 0xFC1FFFFF#32 = packI op 0 d imm ↔
    opField w = op ∧ fieldXdI w = d ∧ immField w = imm := by
  simp (disch := decide) only [eq_packI_iff, opField, fieldXs, fieldXdI, immField, extract_masked_kept,
    extract_masked_dropped, BitVec.toFin_zero, true_and]

theorem masked_packI_onlyXs : w &&& 0xFFE00000#32 = packI op s 0 0 ↔ opField w = op ∧ fieldXs w = s := by
  simp (disch := decide) only [eq_packI_iff, opField, fieldXs, fieldXdI, immField, extract_masked_kept,
    extract_masked_dropped, BitVec.toFin_zero, and_true]

theorem masked_packI_onlyImm : w &&& 0xFC00FFFF#32 = packI op 0 0 imm ↔ opField w = op ∧ immField w = imm := by
  simp (disch := decide) only [eq_packI_iff, opField, fieldXs, fieldXdI, immField, extract_masked_kept,
    extract_masked_dropped, BitVec.toFin_zero, true_and]

theorem masked_packJ : w &&& 0xFFFFFFFF#32 = packJ op dest ↔ opField w = op ∧ destField w = dest := by
  simp (disch := decide) only [eq_packJ_iff, opField, destField, extract_masked_kept]

theorem masked_packJ_onlyOp : w &&& 0xFC000000#32 = packJ op 0 ↔ opField w = op := by
  simp (disch := decide) only [eq_packJ_iff, opField, destField, extract_masked_kept, extract_masked_dropped, and_true]

/-! ### The decoder reads the used bits alone -/

/-- A word of opcode 00 has, in the used bits of what it decodes to, the canonical word. -/
theorem decodeOp00_used {i : Instr} (hop : opField w = 0x00#6) (h : decodeOp00 (funcField w) w = .ok i) :
    w &&& i.usedBits = encode i := by
  unfold decodeOp00 at h
  split at h
  case h_23 => exact nomatch h -- a function of no row
  all_goals
    obtain rfl := Except.ok.inj h
    simp only [Instr.usedBits, encode, masked_packR, masked_packR_noXc, masked_packR_onlyXs, masked_packR_onlyXd,
      hop, ‹funcField w = _›, and_self]

/-- A word of opcode 01 has, in the used bits of what it decodes to, the canonical word. -/
theorem decodeOp01_used {i : Instr} (hop : opField w = 0x01#6) (h : decodeOp01 (funcField w) w = .ok i) :
    w &&& i.usedBits = encode i := by
  unfold decodeOp01 at h
  split at h
  case h_31 => exact nomatch h -- a function of no row
  all_goals
    obtain rfl := Except.ok.inj h
    simp only [Instr.usedBits, encode, masked_packR, masked_packR_noXc, masked_packR_noXd, hop,
      ‹funcField w = _›, and_self]

/-- A word has, in the used bits of what it decodes to, the canonical word (30_encoding.md R59, R60). -/
theorem decode_used {i : Instr} (h : decode w = .ok i) : w &&& i.usedBits = encode i := by
  unfold decode decodeOp at h
  split at h
  case h_1 hop => exact decodeOp00_used hop h
  case h_2 hop => exact decodeOp01_used hop h
  case h_42 => exact nomatch h -- an opcode of no row
  all_goals
    obtain rfl := Except.ok.inj h
    simp only [Instr.usedBits, encode, masked_packI, masked_packI_noXd, masked_packI_noXs, masked_packI_onlyXs,
      masked_packI_onlyImm, masked_packJ, masked_packJ_onlyOp, ‹opField w = _›, and_self]

/-- A word with the used bits of an instruction's canonical word decodes to it, whatever its unused bits
(30_encoding.md R61). -/
theorem decode_of_used {i : Instr} (h : w &&& i.usedBits = encode i) : decode w = .ok i := by
  open Laws in
  cases i with
  | sll | srl | sra | add | addu | sub | subu | and | or | xor | seq | sne | slt | sgt | sle | sge =>
    obtain ⟨hop, rfl, rfl, rfl, hf⟩ := masked_packR.mp h
    exact decode_by_func00 hop hf rfl
  | movf | movd | movfp2i | movi2fp =>
    obtain ⟨hop, rfl, rfl, hf⟩ := masked_packR_noXc.mp h
    exact decode_by_func00 hop hf rfl
  | movi2s =>
    obtain ⟨hop, rfl, hf⟩ := masked_packR_onlyXs.mp h
    exact decode_by_func00 hop hf rfl
  | movs2i =>
    obtain ⟨hop, rfl, hf⟩ := masked_packR_onlyXd.mp h
    exact decode_by_func00 hop hf rfl
  | addf | subf | multf | divf | addd | subd | multd | divd | mult | div | multu | divu =>
    obtain ⟨hop, rfl, rfl, rfl, hf⟩ := masked_packR.mp h
    exact decode_by_func01 hop hf rfl
  | cvtf2d | cvtf2i | cvtd2f | cvtd2i | cvti2f | cvti2d =>
    obtain ⟨hop, rfl, rfl, hf⟩ := masked_packR_noXc.mp h
    exact decode_by_func01 hop hf rfl
  | eqf | nef | ltf | gtf | lef | gef | eqd | ned | ltd | gtd | led | ged =>
    obtain ⟨hop, rfl, rfl, hf⟩ := masked_packR_noXd.mp h
    exact decode_by_func01 hop hf rfl
  | j | jal | trap =>
    obtain ⟨hop, rfl⟩ := masked_packJ.mp h
    exact decode_by_op hop rfl
  | rfe => exact decode_by_op (masked_packJ_onlyOp.mp h) rfl
  | beqz | bnez =>
    obtain ⟨hop, rfl, rfl⟩ := masked_packI_noXd.mp h
    exact decode_by_op hop rfl
  | bfpt | bfpf =>
    obtain ⟨hop, rfl⟩ := masked_packI_onlyImm.mp h
    exact decode_by_op hop rfl
  | lhi =>
    obtain ⟨hop, rfl, rfl⟩ := masked_packI_noXs.mp h
    exact decode_by_op hop rfl
  | jr | jalr =>
    obtain ⟨hop, rfl⟩ := masked_packI_onlyXs.mp h
    exact decode_by_op hop rfl
  | addi | addui | subi | subui | andi | ori | xori | slli | srli | srai | seqi | snei | slti | sgti | slei
  | sgei | lb | lh | lw | lbu | lhu | lf | ld | sb | sh | sw | sf | sd =>
    obtain ⟨hop, rfl, rfl, rfl⟩ := masked_packI.mp h
    exact decode_by_op hop rfl

end Masks

/-- Settles O1: the four bytes make up the word again, and decoding undoes encoding. -/
theorem decodingInvertsEncoding : Obligations.DecodingInvertsEncoding := by
  intro i rest
  simp only [encodeBytes, List.cons_append, List.nil_append, decodeBytes, wordOfBytes_byteOfWord, decode_encode]

/-- Settles O2: each arm of the decoder has the used fields of its instruction and no others. -/
theorem wordDecodesByItsUsedBits : Obligations.WordDecodesByItsUsedBits :=
  fun _ _ => ⟨decode_used, decode_of_used⟩

/-! ### The reserved words -/

/-- The functions of opcode 00 of no row (30_encoding.md R66). -/
theorem decodeOp00_error_iff {func : BitVec 11} {w : Word} : (∃ e, decodeOp00 func w = .error e) ↔
    func ∉ ([0x04, 0x06, 0x07, 0x20, 0x21, 0x22, 0x23, 0x24, 0x25, 0x26, 0x28,
      0x29, 0x2A, 0x2B, 0x2C, 0x2D, 0x30, 0x31, 0x32, 0x33, 0x34, 0x35] : List (BitVec 11)) := by
  unfold decodeOp00
  split
  case h_23 => simp_all
  all_goals exact iff_of_false nofun (by decide)

/-- The functions of opcode 01 of no row (30_encoding.md R66). -/
theorem decodeOp01_error_iff {func : BitVec 11} {w : Word} :
    (∃ e, decodeOp01 func w = .error e) ↔ 0x1D < func.toNat := by
  unfold decodeOp01
  split
  case h_31 => exact iff_of_true ⟨_, rfl⟩ (by simp only [imp_false] at *; bv_omega)
  all_goals exact iff_of_false nofun (by decide)

/-- The primary opcodes of no row (30_encoding.md R66). -/
theorem decodeOp_error_iff {op : BitVec 6} {w : Word} : (∃ e, decodeOp op w = .error e) ↔
    (op = 0x00 ∧ ∃ e, decodeOp00 (funcField w) w = .error e) ∨
    (op = 0x01 ∧ ∃ e, decodeOp01 (funcField w) w = .error e) ∨
    op ∈ ([0x15, 0x1E, 0x1F, 0x22, 0x3C, 0x3D] : List (BitVec 6)) ∨
    (0x2A ≤ op.toNat ∧ op.toNat ≤ 0x3A) := by
  unfold decodeOp
  split
  case h_1 => simp
  case h_2 => simp
  case h_42 => exact iff_of_true ⟨_, rfl⟩ (by simp only [imp_false, List.mem_cons] at *; bv_omega)
  all_goals exact iff_of_false nofun (by simp)

/-- A reserved word ends the run as the fault ReservedInstruction (30_encoding.md R66, 70_reset_and_hazards.md
R360). -/
theorem step_of_decode_error {s : State} {w : Word} {e : DecodeReject} (hs : s.status = .running)
    (hf : s.fetch = .ok w) (hd : decode w = .error e) : step s = .fault .reservedInstruction := by
  simp only [step, hs, hf, hd]

/-- Settles O3: the reserved words are those the three tables of the decoder have no row for, and the zero word has
opcode 00 with function 0. -/
theorem reservedWordsStopTheRun : Obligations.ReservedWordsStopTheRun := by
  refine ⟨fun w => ?_, ⟨_, rfl⟩, fun s w hs hf ⟨e, hd⟩ => ?_⟩
  · rw [decode, decodeOp_error_iff, decodeOp00_error_iff, decodeOp01_error_iff]
  · have hstep := step_of_decode_error hs hf hd
    exact ⟨hstep, by rw [runStep, hstep]; rfl⟩

/-! ### Every instruction has a meaning -/

/-- The outcome is no refusal. -/
def NotRefused (x : StepOutcome) : Prop := ∀ r : Refusal, x ≠ .refused r

theorem next_notRefused (s : State) : NotRefused (.next s) := nofun

theorem fault_notRefused (k : Fault) : NotRefused (.fault k) := nofun

/-- An operand that cannot be read is a fault. -/
theorem withOperand_notRefused {α : Type} {x : Except Fault α} {k : α → StepOutcome}
    (h : ∀ a, NotRefused (k a)) :
    NotRefused (withOperand x k) := by
  cases x with
  | error e => exact fault_notRefused e
  | ok a => exact h a

theorem regRegDivide_notRefused (op : Word → Word → Word) (rd rs rc : RegNum) (s : State) :
    NotRefused (regRegDivide op rd rs rc s) := by
  unfold regRegDivide
  split
  · exact fault_notRefused _
  · exact next_notRefused _

theorem branch_notRefused (taken : Bool) (imm : Imm16) (s : State) : NotRefused (branch taken imm s) := by
  cases taken <;> exact next_notRefused _

theorem State.returnFromTrap_notRefused (s : State) : NotRefused s.returnFromTrap := by
  unfold State.returnFromTrap
  split
  · exact fault_notRefused _
  · exact next_notRefused _

theorem State.serveTrap_notRefused (s : State) (n : Dest26) : NotRefused (s.serveTrap n) := by
  unfold State.serveTrap
  split
  · exact next_notRefused _
  · exact State.returnFromTrap_notRefused _

theorem State.takeTrap_notRefused (s : State) (n : Dest26) : NotRefused (s.takeTrap n) := by
  unfold State.takeTrap
  split
  next => exact fault_notRefused _
  next =>
    split
    · exact State.serveTrap_notRefused _ n
    · exact next_notRefused _

theorem exec_notRefused (i : Instr) (s : State) : NotRefused (exec i s) := by
  cases i with
  | sll | srl | sra | add | addu | sub | subu | and | or | xor | seq | sne | slt | sgt | sle | sge
  | mult | multu | addi | addui | subi | subui | andi | ori | xori | lhi | slli | srli | srai | seqi | snei | slti
  | sgti | slei | sgei | movi2s | movs2i | movf | movfp2i | movi2fp | addf | subf | multf | divf | cvtf2i | cvti2f
  | eqf | nef | ltf | gtf | lef | gef | j | jal | jr | jalr => exact next_notRefused _
  | div | divu => exact regRegDivide_notRefused _ _ _ _ s
  | beqz | bnez | bfpt | bfpf => exact branch_notRefused _ _ s
  | rfe => exact State.returnFromTrap_notRefused s
  | trap n => exact State.takeTrap_notRefused s n
  | cvtf2d | cvti2d | cvtd2f | cvtd2i | lb | lh | lw | lbu | lhu | lf | sb | sh | sw | sf =>
    exact withOperand_notRefused fun _ => next_notRefused _
  | movd | eqd | ned | ltd | gtd | led | ged | ld | sd =>
    exact withOperand_notRefused fun _ => withOperand_notRefused fun _ => next_notRefused _
  | addd | subd | multd | divd =>
    exact withOperand_notRefused fun _ => withOperand_notRefused fun _ => withOperand_notRefused fun _ =>
      next_notRefused _

theorem execChecked_notRefused (i : Instr) (s : State) : NotRefused (execChecked i s) := by
  obtain ⟨-, h⟩ | ⟨-, h⟩ := execChecked_cases i s
  · exact h ▸ next_notRefused _
  · exact h ▸ exec_notRefused i s

theorem step_notRefused (s : State) : NotRefused (step s) := by
  unfold step
  split
  case h_1 | h_2 => exact next_notRefused s
  case h_3 =>
    split
    next => exact fault_notRefused _
    next =>
      split
      next => exact fault_notRefused _
      next i _ => exact execChecked_notRefused i s

/-- Settles O59: each shape an instruction ends in goes on or faults. -/
theorem noInstructionIsRefused : Obligations.NoInstructionIsRefused := ⟨exec_notRefused, step_notRefused⟩

end Sys2Proof.Machine

/-! The assembler: what each operand and each form of the table builds, and that the table has one row for a mnemonic
(30_encoding.md R71 to R78). -/

namespace Sys2Proof.Machine

/-! ### The operands -/

/-- A field value that a register of the file can have: a D field names a double register (30_encoding.md R72). -/
def RegFile.Admits (d : DregField) : RegFile → RegNum → Prop
  | .double, k => d.names k = true
  | .int, _ | .single, _ => True

section Operands
variable {d : DregField} {file : RegFile} {k : RegNum} {w : Nat} {low high : Int}

/-- A register as it is written gives its field value. -/
theorem regOperand_regOut (h : file.Admits d k) : regOperand d file (regOut d file k) = .ok k := by
  cases file with
  | int | single => simp [regOut, regOperand, regField]
  | double =>
    cases d with
    | dIndex => simpa [regOut, regOperand, regField, RegFile.Admits, DregField.names] using h
    | evenFIndex =>
      have heven : k.val % 2 = 0 := by simpa [RegFile.Admits, DregField.names] using h
      have hhalf : k.val / 2 < 16 := by omega
      simp only [regOut, regOperand, regField, if_true, dif_pos hhalf, Except.ok.injEq, Fin.ext_iff]
      omega

/-- The field value of a register, as the assembler codes it. -/
theorem regField_admits {n : Nat} (h : regField d file n = .ok k) : file.Admits d k := by
  cases file with
  | int | single => trivial
  | double =>
    cases d <;> simp only [regField] at h <;> split at h <;> cases h
    next hn => simp [RegFile.Admits, DregField.names]
    next hn => simpa [RegFile.Admits, DregField.names] using hn

theorem regOperand_admits {a : AsmOperand} (h : regOperand d file a = .ok k) : file.Admits d k := by
  unfold regOperand at h
  split at h
  next =>
    split at h
    next => exact regField_admits h
    next => cases h
  next => cases h

theorem immOperand_imm {k : Int} (h : low ≤ k ∧ k ≤ high) :
    immOperand w low high (.imm k) = .ok (BitVec.ofInt w k) := by
  rw [immOperand, within, if_pos h]
  rfl

/-- A field written as a signed number (30_encoding.md R73). -/
theorem immOperand_toInt {v : BitVec w} (h : low ≤ v.toInt ∧ v.toInt ≤ high) :
    immOperand w low high (.imm v.toInt) = .ok v := by
  rw [immOperand_imm h, BitVec.ofInt_toInt]

/-- A field written as an unsigned number (30_encoding.md R73). -/
theorem immOperand_toNat {v : BitVec w} (h : low ≤ (v.toNat : Int) ∧ (v.toNat : Int) ≤ high) :
    immOperand w low high (.imm v.toNat) = .ok v := by
  rw [immOperand_imm h, BitVec.ofInt_natCast, BitVec.ofNat_toNat, BitVec.setWidth_eq]

/-- An immediate operand is a number within its bounds. -/
theorem immOperand_ok {a : AsmOperand} {v : BitVec w} (h : immOperand w low high a = .ok v) :
    ∃ k : Int, (low ≤ k ∧ k ≤ high) ∧ BitVec.ofInt w k = v := by
  unfold immOperand within at h
  split at h
  next k =>
    split at h
    next hk => exact ⟨k, hk, Except.ok.inj h⟩
    next => cases h
  next => cases h

/-- A shift amount the assembler takes is below 32 (30_encoding.md R78). -/
theorem shiftOperand_lt {a : AsmOperand} {v : Imm16} (h : ImmRange.shift.operand a = .ok v) : v.toNat < 32 := by
  obtain ⟨k, hk, rfl⟩ := immOperand_ok h
  rw [BitVec.toNat_ofInt]
  omega

/-- The bounds of 16 bits, signed. -/
theorem imm16_toInt_bounds (v : Imm16) : -32768 ≤ v.toInt ∧ v.toInt ≤ 32767 := by
  have hlow := v.le_toInt
  have hhigh := v.toInt_lt
  omega

/-- A displacement and a base register as they are written. -/
theorem memOperand_mem (v : Imm16) : memOperand d (.mem v.toInt k.val) = .ok (k, v) := by
  have hreg : regField d .int k.val = .ok k := by simp [regField]
  rw [memOperand, hreg, within, if_pos (imm16_toInt_bounds v)]
  exact congrArg (fun x => Except.ok (k, x)) (BitVec.ofInt_toInt)

end Operands

/-! ### The forms -/

/-- Every instruction that the form builds of admitted fields is well-formed. -/
def AsmForm.Sound (d : DregField) : AsmForm → Prop
  | .three file mk =>
    ∀ a b c, file.Admits d a → file.Admits d b → file.Admits d c → (mk a b c).wellFormed d = true
  | .two first second mk => ∀ a b, first.Admits d a → second.Admits d b → (mk a b).wellFormed d = true
  | .one file mk => ∀ a, file.Admits d a → (mk a).wellFormed d = true
  | .imm range mk => ∀ a b v, (range = .shift → v.toNat < 32) → (mk a b v).wellFormed d = true
  | .high mk | .branchReg mk => ∀ a v, (mk a v).wellFormed d = true
  | .branch mk => ∀ v, (mk v).wellFormed d = true
  | .jump mk | .trap mk => ∀ v, (mk v).wellFormed d = true
  | .none i => i.wellFormed d = true
  | .load file mk | .store file mk => ∀ a b v, file.Admits d a → (mk a b v).wellFormed d = true

/-- Going on after an operand means that it was taken. -/
theorem bind_eq_ok {ε α β : Type} {x : Except ε α} {f : α → Except ε β} {b : β} :
    (x >>= f) = .ok b ↔ ∃ a, x = .ok a ∧ f a = .ok b := by
  cases x with
  | error e => exact iff_of_false nofun fun ⟨_, h, _⟩ => nomatch h
  | ok a => exact ⟨fun h => ⟨a, rfl, h⟩, fun ⟨_, ha, h⟩ => Except.ok.inj ha ▸ h⟩

/-- What a sound form builds is well-formed, whatever is written. -/
theorem AsmForm.Sound.wellFormed {d : DregField} {form : AsmForm} {operands : List AsmOperand} {i : Instr}
    (hs : form.Sound d) (h : form.build d operands = .ok i) : i.wellFormed d = true := by
  unfold AsmForm.build at h
  split at h
  -- a form without operands, and an operand list that fits no form
  case h_10 => exact Except.ok.inj h ▸ hs
  case h_13 => cases h
  all_goals simp only [bind_eq_ok] at h
  -- registers alone
  case h_1 =>
    obtain ⟨x, hx, y, hy, z, hz, ⟨⟩⟩ := h
    exact hs x y z (regOperand_admits hx) (regOperand_admits hy) (regOperand_admits hz)
  case h_2 =>
    obtain ⟨x, hx, y, hy, ⟨⟩⟩ := h
    exact hs x y (regOperand_admits hx) (regOperand_admits hy)
  case h_3 =>
    obtain ⟨x, hx, ⟨⟩⟩ := h
    exact hs x (regOperand_admits hx)
  -- an immediate, a target or a trap number
  case h_4 =>
    obtain ⟨x, -, y, -, v, hv, ⟨⟩⟩ := h
    exact hs x y v fun hr => shiftOperand_lt (hr ▸ hv)
  case h_5 | h_6 =>
    obtain ⟨x, -, v, -, ⟨⟩⟩ := h
    exact hs x v
  case h_7 | h_8 | h_9 =>
    obtain ⟨v, -, ⟨⟩⟩ := h
    exact hs v
  -- loads and stores
  case h_11 =>
    obtain ⟨x, hx, m, -, ⟨⟩⟩ := h
    exact hs x m.1 m.2 (regOperand_admits hx)
  case h_12 =>
    obtain ⟨m, -, x, hx, ⟨⟩⟩ := h
    exact hs x m.1 m.2 (regOperand_admits hx)

theorem asmTable00_sound (d : DregField) : ∀ row ∈ asmTable00, row.2.Sound d := by
  simp only [asmTable00, List.forall_mem_cons, List.not_mem_nil, false_implies, implies_true, and_true]
  simp +contextual only [AsmForm.Sound, RegFile.Admits, Instr.wellFormed, Bool.and_self, implies_true, and_self]

theorem asmTable01_sound (d : DregField) : ∀ row ∈ asmTable01, row.2.Sound d := by
  simp only [asmTable01, List.forall_mem_cons, List.not_mem_nil, false_implies, implies_true, and_true]
  simp +contextual only [AsmForm.Sound, RegFile.Admits, Instr.wellFormed, Bool.and_self, implies_true, and_self]

theorem asmTableIJ_sound (d : DregField) : ∀ row ∈ asmTableIJ, row.2.Sound d := by
  simp only [asmTableIJ, List.forall_mem_cons, List.not_mem_nil, false_implies, implies_true, and_true]
  simp +contextual only [AsmForm.Sound, RegFile.Admits, Instr.wellFormed, shiftAmountOk, decide_true,
    reduceCtorEq, implies_true, and_self]

/-- Every row of the table is sound. -/
theorem asmTable_sound (d : DregField) : ∀ row ∈ asmTable, row.2.Sound d := by
  rw [asmTable]
  simp only [List.forall_mem_append, List.forall_mem_singleton]
  exact ⟨⟨⟨asmTable00_sound d, asmTable01_sound d⟩, asmTableIJ_sound d⟩, fun _ _ _ _ => rfl⟩

/-- A row that is found is in the table. -/
theorem mem_of_lookupForm {mnemonic : List Char} {form : AsmForm} {l : List (List Char × AsmForm)}
    (h : lookupForm mnemonic l = .ok form) : (mnemonic, form) ∈ l := by
  induction l with
  | nil => cases h
  | cons row rest ih =>
    rw [lookupForm] at h
    split at h
    next hname =>
      obtain rfl := Except.ok.inj h
      exact hname ▸ List.mem_cons_self
    next => exact List.mem_cons_of_mem row (ih h)

/-- Settles O6: the row that is found is sound. -/
theorem assemblerWritesWellFormedOnly : Obligations.AssemblerWritesWellFormedOnly := by
  intro d x i h
  obtain ⟨form, hrow, hbuild⟩ := bind_eq_ok.mp h
  exact (asmTable_sound d _ (mem_of_lookupForm hrow)).wellFormed hbuild

/-! ### The canonical spelling -/

/-- No mnemonic has two rows (30_encoding.md R60, R77). -/
theorem asmTable_nodup : (asmTable.map Prod.fst).Nodup := by decide +kernel

/-- With one row for a mnemonic, that row is found. -/
theorem lookupForm_of_mem {mnemonic : List Char} {form : AsmForm} {l : List (List Char × AsmForm)}
    (hl : (l.map Prod.fst).Nodup) (h : (mnemonic, form) ∈ l) : lookupForm mnemonic l = .ok form := by
  induction l with
  | nil => cases h
  | cons row rest ih =>
    rw [List.map_cons, List.nodup_cons] at hl
    rcases List.mem_cons.mp h with rfl | hrest
    · exact if_pos rfl
    · have hne : row.1 ≠ mnemonic := fun e => hl.1 (e ▸ List.mem_map_of_mem hrest)
      exact (if_neg hne).trans (ih hl.2 hrest)

/-- What is written assembles to what its row builds; that the row is in the table is found by reading it off. -/
theorem assembleInstr_of_row {d : DregField} {mnemonic : List Char} {operands : List AsmOperand} {form : AsmForm}
    {i : Instr} (hb : form.build d operands = .ok i)
    (hrow : (mnemonic, form) ∈ asmTable := by
      simp only [asmTable, asmTable00, asmTable01, asmTableIJ, List.mem_append, List.mem_cons, true_or, or_true]) :
    assembleInstr d ⟨mnemonic, operands⟩ = .ok i :=
  bind_eq_ok.mpr ⟨form, lookupForm_of_mem asmTable_nodup hrow, hb⟩

section Builds
variable {d : DregField} {file first second : RegFile} {a b c : RegNum}

theorem build_three {mk : RegNum → RegNum → RegNum → Instr} (ha : file.Admits d a) (hb : file.Admits d b)
    (hc : file.Admits d c) :
    (AsmForm.three file mk).build d [regOut d file a, regOut d file b, regOut d file c] = .ok (mk a b c) := by
  rw [AsmForm.build, regOperand_regOut ha, regOperand_regOut hb, regOperand_regOut hc]
  rfl

theorem build_two {mk : RegNum → RegNum → Instr} (ha : first.Admits d a) (hb : second.Admits d b) :
    (AsmForm.two first second mk).build d [regOut d first a, regOut d second b] = .ok (mk a b) := by
  rw [AsmForm.build, regOperand_regOut ha, regOperand_regOut hb]
  rfl

theorem build_one {mk : RegNum → Instr} (ha : file.Admits d a) :
    (AsmForm.one file mk).build d [regOut d file a] = .ok (mk a) := by
  rw [AsmForm.build, regOperand_regOut ha]
  rfl

/-- The registers of the forms that have an immediate are integer registers. -/
theorem regOperand_int (k : RegNum) : regOperand d .int (regOut d .int k) = .ok k :=
  regOperand_regOut (file := .int) trivial

theorem build_imm {mk : RegNum → RegNum → Imm16 → Instr} {range : ImmRange} {k : Int} {v : Imm16}
    (hk : range.operand (.imm k) = .ok v) :
    (AsmForm.imm range mk).build d [regOut d .int a, regOut d .int b, .imm k] = .ok (mk a b v) := by
  rw [AsmForm.build, regOperand_int, regOperand_int, hk]
  rfl

theorem build_high {mk : RegNum → Imm16 → Instr} (v : Imm16) :
    (AsmForm.high mk).build d [regOut d .int a, .imm v.toNat] = .ok (mk a v) := by
  rw [AsmForm.build, regOperand_int, immOperand_toNat (by omega)]
  rfl

theorem build_branchReg {mk : RegNum → Imm16 → Instr} (v : Imm16) :
    (AsmForm.branchReg mk).build d [regOut d .int a, .imm v.toInt] = .ok (mk a v) := by
  rw [AsmForm.build, regOperand_int, immOperand_toInt (imm16_toInt_bounds v)]
  rfl

theorem build_branch {mk : Imm16 → Instr} (v : Imm16) :
    (AsmForm.branch mk).build d [.imm v.toInt] = .ok (mk v) := by
  rw [AsmForm.build, immOperand_toInt (imm16_toInt_bounds v)]
  rfl

theorem build_jump {mk : Dest26 → Instr} (v : Dest26) : (AsmForm.jump mk).build d [.imm v.toInt] = .ok (mk v) := by
  have hlow := v.le_toInt
  have hhigh := v.toInt_lt
  rw [AsmForm.build, immOperand_toInt (by omega)]
  rfl

theorem build_trap {mk : Dest26 → Instr} (v : Dest26) : (AsmForm.trap mk).build d [.imm v.toNat] = .ok (mk v) := by
  rw [AsmForm.build, immOperand_toNat (by omega)]
  rfl

theorem build_load {mk : RegNum → RegNum → Imm16 → Instr} (v : Imm16) (ha : file.Admits d a) :
    (AsmForm.load file mk).build d [regOut d file a, .mem v.toInt b.val] = .ok (mk a b v) := by
  rw [AsmForm.build, regOperand_regOut ha, memOperand_mem]
  rfl

theorem build_store {mk : RegNum → RegNum → Imm16 → Instr} (v : Imm16) (ha : file.Admits d a) :
    (AsmForm.store file mk).build d [.mem v.toInt b.val, regOut d file a] = .ok (mk a b v) := by
  rw [AsmForm.build, regOperand_regOut ha, memOperand_mem]
  rfl

/-! The three ranges of an immediate (30_encoding.md R78). -/

theorem signed_operand (v : Imm16) : ImmRange.signed.operand (.imm v.toInt) = .ok v :=
  immOperand_toInt (imm16_toInt_bounds v)

theorem unsigned_operand (v : Imm16) : ImmRange.unsigned.operand (.imm v.toNat) = .ok v :=
  immOperand_toNat (by omega)

theorem shift_operand {v : Imm16} (h : shiftAmountOk v = true) : ImmRange.shift.operand (.imm v.toNat) = .ok v := by
  have hlt := of_decide_eq_true h
  exact immOperand_toNat (by omega)

end Builds

/-- Settles O5: each operand is taken as it is written, the checks being those of well-formedness, and the mnemonic
has one row. -/
theorem canonicalSpellingAssembles : Obligations.CanonicalSpellingAssembles := by
  intro d i h
  cases i with
  | sll | srl | sra | add | addu | sub | subu | and | or | xor | seq | sne | slt | sgt | sle | sge | mult | div
  | multu | divu | addf | subf | multf | divf => exact assembleInstr_of_row (build_three trivial trivial trivial)
  | addd | subd | multd | divd =>
    obtain ⟨hab, hc⟩ := Bool.and_eq_true_iff.mp h
    obtain ⟨ha, hb⟩ := Bool.and_eq_true_iff.mp hab
    exact assembleInstr_of_row (build_three ha hb hc)
  | movf | movfp2i | movi2fp | cvtf2i | cvti2f | eqf | nef | ltf | gtf | lef | gef =>
    exact assembleInstr_of_row (build_two trivial trivial)
  | movd | eqd | ned | ltd | gtd | led | ged =>
    obtain ⟨ha, hb⟩ := Bool.and_eq_true_iff.mp h
    exact assembleInstr_of_row (build_two ha hb)
  | cvtf2d | cvti2d => exact assembleInstr_of_row (build_two h trivial)
  | cvtd2f | cvtd2i => exact assembleInstr_of_row (build_two trivial h)
  | movi2s | movs2i | jr | jalr => exact assembleInstr_of_row (build_one trivial)
  | j dest | jal dest => exact assembleInstr_of_row (build_jump dest)
  | trap n => exact assembleInstr_of_row (build_trap n)
  | rfe => exact assembleInstr_of_row (form := .none .rfe) rfl
  | beqz rs imm | bnez rs imm => exact assembleInstr_of_row (build_branchReg imm)
  | bfpt imm | bfpf imm => exact assembleInstr_of_row (build_branch imm)
  | lhi rd imm => exact assembleInstr_of_row (build_high imm)
  | addi rd rs imm | subi rd rs imm | seqi rd rs imm | snei rd rs imm | slti rd rs imm | sgti rd rs imm
  | slei rd rs imm | sgei rd rs imm => exact assembleInstr_of_row (build_imm (signed_operand imm))
  | addui rd rs imm | subui rd rs imm | andi rd rs imm | ori rd rs imm | xori rd rs imm =>
    exact assembleInstr_of_row (build_imm (unsigned_operand imm))
  | slli | srli | srai => exact assembleInstr_of_row (build_imm (shift_operand h))
  | lb rd rs imm | lh rd rs imm | lw rd rs imm | lbu rd rs imm | lhu rd rs imm | lf rd rs imm =>
    exact assembleInstr_of_row (build_load imm trivial)
  | ld rd rs imm => exact assembleInstr_of_row (build_load imm h)
  | sb rd rs imm | sh rd rs imm | sw rd rs imm | sf rd rs imm =>
    exact assembleInstr_of_row (build_store imm trivial)
  | sd rd rs imm => exact assembleInstr_of_row (build_store imm h)

end Sys2Proof.Machine

/-! The register forms of the integer instructions (40_int_register.md R100 to R119), and words of the spec's
examples. -/

namespace Sys2Proof.Machine

/-! ### The shape -/

/-- An instruction of the shape completes with what its operation makes of the two operands. -/
theorem regReg_completes (op : Word → Word → Word) {s : State} {rd rs rc : RegNum} {a b v : Word}
    (hs : s.readR rs = a) (hc : s.readR rc = b) (hv : op a b = v) :
    Completes (regReg op rd rs rc s) (IntResult s rd v) := by
  rw [regReg, hs, hc, hv]
  exact completes_writeR s rd v

/-! ### Comparisons as words (40_int_register.md R119) -/

theorem boolWord_decide (p : Prop) [Decidable p] : boolWord (decide p) = if p then 1 else 0 := by
  simp only [boolWord, decide_eq_true_eq]

theorem setEq_eq (a b : Word) : setEq a b = if a = b then 1 else 0 := boolWord_decide (a = b)

theorem setNe_eq (a b : Word) : setNe a b = if a = b then 0 else 1 :=
  (boolWord_decide (a ≠ b)).trans (ite_not ..)

theorem setLt_eq (a b : Word) : setLt a b = if a.slt b then 1 else 0 := by
  simp only [setLt, boolWord_decide, BitVec.slt_iff_toInt_lt]

theorem setLe_eq (a b : Word) : setLe a b = if a.sle b then 1 else 0 := by
  simp only [setLe, boolWord_decide, BitVec.sle_iff_toInt_le]

/-- Greater is less the other way round. -/
theorem setGt_eq (a b : Word) : setGt a b = if b.slt a then 1 else 0 := setLt_eq b a

theorem setGe_eq (a b : Word) : setGe a b = if b.sle a then 1 else 0 := setLe_eq b a

/-! ### The instructions -/

/-- The shifts by an amount `n` that the five low bits of `Rc` denote (40_int_register.md R118). -/
theorem registerShifts_complete {s : State} {rd rs rc : RegNum} {a b : Word} {n : Nat} (hs : s.readR rs = a)
    (hc : s.readR rc = b) (hn : b.toNat % 32 = n) :
    Completes (exec (.sll rd rs rc) s) (IntResult s rd (a <<< n)) ∧
    Completes (exec (.srl rd rs rc) s) (IntResult s rd (a >>> n)) ∧
    Completes (exec (.sra rd rs rc) s) (IntResult s rd (a.sshiftRight n)) := by
  have hamount : shiftAmount b = n := (shiftAmount_eq b).trans hn
  refine ⟨regReg_completes (fun x c => shiftLeft x (shiftAmount c)) hs hc ?_,
    regReg_completes (fun x c => shiftRightLogical x (shiftAmount c)) hs hc ?_,
    regReg_completes (fun x c => shiftRightArith x (shiftAmount c)) hs hc ?_⟩
  · rw [hamount, shiftLeft_eq]
  · rw [hamount, shiftRightLogical_eq]
  · rw [hamount, shiftRightArith_eq]

/-- Settles O17: the shift by the amount of R118, which at 0 is no shift. -/
theorem registerShiftResults : Obligations.RegisterShiftResults := by
  refine ⟨fun s rd rs rc a b hs hc => registerShifts_complete hs hc rfl, fun s rd rs rc a b hs hc h0 => ?_⟩
  have hshift := registerShifts_complete (rd := rd) hs hc h0
  rwa [BitVec.shiftLeft_zero, BitVec.ushiftRight_zero, BitVec.sshiftRight_zero] at hshift

/-- Settles O18: each operation, computed on integers and cut to 32 bits, is the one on bit vectors. -/
theorem registerArithmeticResults : Obligations.RegisterArithmeticResults := by
  intro s rd rs rc a b hs hc
  have hadd := addWord_eq a b
  have hsub := subWord_eq a b
  exact ⟨regReg_completes addWord hs hc hadd, regReg_completes addWord hs hc hadd,
    regReg_completes subWord hs hc hsub, regReg_completes subWord hs hc hsub,
    regReg_completes andWord hs hc rfl, regReg_completes orWord hs hc rfl, regReg_completes xorWord hs hc rfl⟩

/-- Settles O19: the relation of each instruction as a word. -/
theorem registerSetResults : Obligations.RegisterSetResults := by
  intro s rd rs rc a b hs hc
  exact ⟨regReg_completes setEq hs hc (setEq_eq a b), regReg_completes setNe hs hc (setNe_eq a b),
    regReg_completes setLt hs hc (setLt_eq a b), regReg_completes setGt hs hc (setGt_eq a b),
    regReg_completes setLe hs hc (setLe_eq a b), regReg_completes setGe hs hc (setGe_eq a b)⟩

/-! ### Words of the examples -/

/-- The canonical word of an instruction decodes to it (30_encoding.md R78). -/
theorem decode_of_encode_eq {w : Word} {i : Instr} (h : encode i = w) : decode w = .ok i := h ▸ decode_encode i

/-- Settles O4: each word is the canonical one of its instruction. -/
theorem sampleWordsDecode : Obligations.SampleWordsDecode := by
  unfold Obligations.SampleWordsDecode
  and_intros <;> exact decode_of_encode_eq rfl

end Sys2Proof.Machine

/-! The register moves (41_moves.md R120 to R126). -/

namespace Sys2Proof.Machine

/-- Settles O24: each move writes the pattern it reads, so what the write leaves is the claim. -/
theorem moveResults : Obligations.MoveResults := by
  refine ⟨fun s rs a ha => ?movi2s, fun s rd a ha => ?movs2i, fun s fd fs a ha => ?movf,
    fun s rd fs a ha => ?movfp2i, fun s fd rs a ha => ?movi2fp⟩
  case movi2s =>
    rw [exec, execMovi2s, ha]
    exact completes_writeSpecial s a
  case movs2i =>
    rw [exec, execMovs2i, ha]
    exact completes_writeR s rd a
  case movf =>
    rw [exec, execMovf, ha]
    exact completes_writeF s fd a
  case movfp2i =>
    rw [exec, execMovfp2i, ha]
    exact completes_writeR s rd a
  case movi2fp =>
    rw [exec, execMovi2fp, ha]
    exact completes_writeF s fd a

/-- Once both D fields name pairs, MOVD writes the source as it stood before the write (41_moves.md R123,
10_state.md R15). -/
theorem exec_movd_of_pairs {s : State} {dd ds : RegNum} {pd ps : Pair} (hd : s.pair dd = .ok pd)
    (hs : s.pair ds = .ok ps) :
    exec (.movd dd ds) s = .next (s.writePair pd (s.readPair ps)).advance := by
  rw [exec, execMovd, hd, withOperand_ok, hs, withOperand_ok]

/-- Settles O25: the source pair is read as a whole, and the halves of the destination are two registers, so
neither write undoes the other. -/
theorem moveDoubleResults : Obligations.MoveDoubleResults := by
  intro s dd ds pd ps hi lo hd hs hhi hlo
  have hread : s.readPair ps = hi ++ lo := by rw [State.readPair, hhi, hlo]
  rw [exec_movd_of_pairs hd hs, hread]
  exact completes_writePair s pd _ (DregField.pair_hi_ne_lo hd)

end Sys2Proof.Machine

/-! The floating-point instructions write what the numerics give (42_fp_arith_convert.md R132 to R148). -/

namespace Sys2Proof.Machine

/-! ### The shapes -/

/-- A single-precision instruction completes with what its operation makes of the two operands. -/
theorem singleSingle_completes (op : Word → Word → FpResult) {s : State} {fd fs fc : RegNum} {a b : Word}
    (hs : s.readF fs = a) (hc : s.readF fc = b) :
    Completes (singleSingle op fd fs fc s) (SingleResult s fd (op a b)) := by
  rw [singleSingle, hs, hc]
  exact completes_settleSingle s fd (op a b)

/-- A double-precision instruction whose fields name pairs completes with what its operation makes of them. -/
theorem doubleDouble_completes (op : DWord → DWord → FpResult) {s : State} {dd ds dc : RegNum}
    {pd ps pc : Pair} {a b : DWord} (hpd : s.pair dd = .ok pd) (hps : s.pair ds = .ok ps)
    (hpc : s.pair dc = .ok pc) (ha : s.readPair ps = a) (hb : s.readPair pc = b) :
    Completes (doubleDouble op dd ds dc s) (DoubleResult s pd (op a b)) := by
  rw [doubleDouble, hpd, withOperand_ok, hps, withOperand_ok, hpc, withOperand_ok, ha, hb]
  exact completes_settleDouble s pd (op a b) (DregField.pair_hi_ne_lo hpd)

/-- The conversions to double: the D field names a pair, and the result goes there. -/
theorem putDouble_completes {s : State} {dd : RegNum} {pd : Pair} (hpd : s.pair dd = .ok pd) (x : FpResult) :
    Completes (withOperand (s.pair dd) fun p => .next (s.putDouble p x).advance) (DoubleResult s pd x) := by
  rw [hpd, withOperand_ok]
  exact completes_settleDouble s pd x (DregField.pair_hi_ne_lo hpd)

/-! ### The instructions -/

/-- Settles O26: each instruction is the one shape, with its operation of the record `FP`. -/
theorem singleArithmeticResults : Obligations.SingleArithmeticResults := by
  intro s fd fs fc a b hs hc
  exact ⟨singleSingle_completes fpAdd32 hs hc, singleSingle_completes fpSub32 hs hc,
    singleSingle_completes fpMul32 hs hc, singleSingle_completes fpDiv32 hs hc⟩

/-- Settles O27: likewise for pairs. -/
theorem doubleArithmeticResults : Obligations.DoubleArithmeticResults := by
  intro s dd ds dc pd ps pc a b hd hs hc ha hb
  exact ⟨doubleDouble_completes fpAdd64 hd hs hc ha hb, doubleDouble_completes fpSub64 hd hs hc ha hb,
    doubleDouble_completes fpMul64 hd hs hc ha hb, doubleDouble_completes fpDiv64 hd hs hc ha hb⟩

/-- Settles O28: the operand is read first, and what is settled is the conversion of it. -/
theorem conversionResults : Obligations.ConversionResults := by
  refine ⟨fun s dd fs pd a hd ha => ?f2d, fun s rd fs a ha => ?f2i, fun s fd ds ps a hs ha => ?d2f,
    fun s rd ds ps a hs ha => ?d2i, fun s fd rs a ha => ?i2f, fun s dd rs pd a hd ha => ?i2d⟩
  case f2d =>
    rw [exec, execCvtf2d, ha]
    exact putDouble_completes hd (fpF2D a)
  case f2i =>
    rw [exec, execCvtf2i, ha]
    exact completes_settleInt s rd (fpF2I a)
  case d2f =>
    rw [exec, execCvtd2f, hs, withOperand_ok, ha]
    exact completes_settleSingle s fd (fpD2F a)
  case d2i =>
    rw [exec, execCvtd2i, hs, withOperand_ok, ha]
    exact completes_settleInt s rd (fpD2I a)
  case i2f =>
    rw [exec, execCvti2f, ha]
    exact completes_settleSingle s fd (fpI2F a)
  case i2d =>
    rw [exec, execCvti2d, ha]
    exact putDouble_completes hd (fpI2D a)

end Sys2Proof.Machine

/-! What the operations of a format give: which results are NaNs, the rounding of finite results, and the rules
for zeros and infinities (42_fp_arith_convert.md R131 to R139), for every format at once. -/

namespace Sys2Proof.Machine

/-! ### Signed units -/

/-- The sign and the magnitude of an integer give it back. -/
theorem signedUnits_natAbs (t : Int) : signedUnits (decide (t < 0)) t.natAbs = t := by
  unfold signedUnits
  split <;> simp only [decide_eq_true_eq] at * <;> omega

theorem signedUnits_zero (x : Bool) : signedUnits x 0 = 0 := by cases x <;> rfl

theorem signedUnits_not (x : Bool) (m : Nat) : signedUnits (!x) m = -signedUnits x m := by
  cases x <;> simp [signedUnits]

theorem signedUnits_add_not (x : Bool) (m : Nat) : signedUnits x m + signedUnits (!x) m = 0 := by
  rw [signedUnits_not, Int.add_right_neg]

theorem signedUnits_mul (x y : Bool) (m n : Nat) :
    signedUnits x m * signedUnits y n = signedUnits (x != y) (m * n) := by
  cases x <;> cases y <;> simp [signedUnits]

theorem signedUnits_mul_natCast (x : Bool) (m d : Nat) : signedUnits x m * d = signedUnits x (m * d) := by
  cases x <;> simp [signedUnits]

/-! ### The negative of a datum -/

theorem FpDatum.negate_eq_nan {a : FpDatum} : a.negate = .nan ↔ a = .nan := by
  cases a <;> simp [FpDatum.negate]

theorem FpDatum.negate_eq_inf {a : FpDatum} {x : Bool} : a.negate = .inf (!x) ↔ a = .inf x := by
  cases a <;> simp [FpDatum.negate]

/-! ### Results that are NaNs (42_fp_arith_convert.md R131 (a)) -/

section Nan
variable (F : FpFormat)

theorem FpFormat.signed_ne_anyNan (neg : Bool) (c : Nat) : F.signed neg c ≠ .anyNan := FpResult.noConfusion

theorem FpFormat.round_ne_anyNan (neg : Bool) (n d : Nat) : F.round neg n d ≠ .anyNan :=
  F.signed_ne_anyNan neg _

theorem FpFormat.infinity_ne_anyNan (neg : Bool) : F.infinity neg ≠ .anyNan := F.signed_ne_anyNan neg _

/-- A sum is a NaN for a NaN, or for infinities of opposite signs. -/
theorem FpFormat.add_eq_anyNan (a b : FpDatum) :
    F.add a b = .anyNan ↔ a = .nan ∨ b = .nan ∨ ∃ x, a = .inf x ∧ b = .inf (!x) := by
  cases a with
  | nan => simp [FpFormat.add]
  | inf x =>
    cases b with
    | inf y => cases x <;> cases y <;> simp [FpFormat.add, F.infinity_ne_anyNan]
    | nan | finite => simp [FpFormat.add, F.infinity_ne_anyNan]
  | finite x m =>
    cases b with
    | finite y n =>
      simp only [FpFormat.add]
      split <;> simp [F.signed_ne_anyNan, F.round_ne_anyNan]
    | nan | inf => simp [FpFormat.add, F.infinity_ne_anyNan]

/-- A difference is a NaN for a NaN, or for infinities of one sign. -/
theorem FpFormat.sub_eq_anyNan (a b : FpDatum) :
    F.sub a b = .anyNan ↔ a = .nan ∨ b = .nan ∨ ∃ x, a = .inf x ∧ b = .inf x := by
  simp only [FpFormat.sub, F.add_eq_anyNan, FpDatum.negate_eq_nan, FpDatum.negate_eq_inf]

/-- A product is a NaN for a NaN, or for a zero and an infinity. -/
theorem FpFormat.mul_eq_anyNan (a b : FpDatum) :
    F.mul a b = .anyNan ↔ a = .nan ∨ b = .nan ∨ (∃ x y, a = .inf x ∧ b = .finite y 0) ∨
      ∃ x y, a = .finite x 0 ∧ b = .inf y := by
  cases a with
  | nan => simp [FpFormat.mul]
  | inf x => cases b <;> simp [FpFormat.mul, F.infinity_ne_anyNan]
  | finite x m => cases b <;> simp [FpFormat.mul, F.infinity_ne_anyNan, F.round_ne_anyNan]

/-- A quotient is a NaN for a NaN, for two infinities or for two zeros. -/
theorem FpFormat.div_eq_anyNan (a b : FpDatum) :
    F.div a b = .anyNan ↔ a = .nan ∨ b = .nan ∨ (∃ x y, a = .inf x ∧ b = .inf y) ∨
      ∃ x y, a = .finite x 0 ∧ b = .finite y 0 := by
  cases a with
  | nan => simp [FpFormat.div]
  | inf x => cases b <;> simp [FpFormat.div, F.infinity_ne_anyNan]
  | finite x m =>
    cases b with
    | finite y n =>
      by_cases hn : n = 0 <;> by_cases hm : m = 0 <;>
        simp [FpFormat.div, hn, hm, F.infinity_ne_anyNan, F.round_ne_anyNan]
    | nan | inf => simp [FpFormat.div, F.signed_ne_anyNan]

/-- A change of format gives a NaN for a NaN alone (42_fp_arith_convert.md R140). -/
theorem FpFormat.convert_eq_anyNan (G : FpFormat) (a : FpDatum) : F.convert G a = .anyNan ↔ a = .nan := by
  cases a <;> simp [FpFormat.convert, F.infinity_ne_anyNan, F.round_ne_anyNan]

theorem FpFormat.ofInt_ne_anyNan (k : Int) : F.ofInt k ≠ .anyNan := F.round_ne_anyNan _ _ _

end Nan

/-- Settles O32: each operation of the record `FP` is that of its format. -/
theorem nanResultsExactlyWhenInvalid : Obligations.NanResultsExactlyWhenInvalid :=
  ⟨fun a b => ⟨binary32.add_eq_anyNan (single a) (single b), binary32.sub_eq_anyNan (single a) (single b),
      binary32.mul_eq_anyNan (single a) (single b), binary32.div_eq_anyNan (single a) (single b),
      binary64.convert_eq_anyNan binary32 (single a), binary32.ofInt_ne_anyNan _, binary64.ofInt_ne_anyNan _⟩,
    fun a b => ⟨binary64.add_eq_anyNan (double a) (double b), binary64.sub_eq_anyNan (double a) (double b),
      binary64.mul_eq_anyNan (double a) (double b), binary64.div_eq_anyNan (double a) (double b),
      binary32.convert_eq_anyNan binary64 (double a)⟩⟩

/-! ### Zero as a rounded result -/

/-- Zero is rounded to the zero of its sign. -/
theorem FpFormat.round_zero (F : FpFormat) (neg : Bool) (d : Nat) : F.round neg 0 d = F.signed neg 0 := by
  simp [FpFormat.round, FpFormat.roundMagnitude, roundHalfEven, Nat.log2_zero]

/-- A sum that is exactly zero is +0 unless both terms are negative zeros. -/
theorem FpFormat.add_cancels (F : FpFormat) {x y : Bool} {m n : Nat}
    (h : signedUnits x m + signedUnits y n = 0) :
    F.add (.finite x m) (.finite y n) = F.signed (x && y) 0 := by
  simp only [FpFormat.add, h, if_true]

/-- The sum of two finite values is one rounding, of zero too, under the sign the rules give it. -/
theorem FpFormat.add_finite (F : FpFormat) (x y : Bool) (m n : Nat) :
    ∃ neg k, signedUnits x m + signedUnits y n = signedUnits neg k ∧
      F.add (.finite x m) (.finite y n) = F.round neg k 1 := by
  by_cases h0 : signedUnits x m + signedUnits y n = 0
  · exact ⟨x && y, 0, h0.trans (signedUnits_zero _).symm, by rw [F.add_cancels h0, F.round_zero]⟩
  · exact ⟨_, _, (signedUnits_natAbs _).symm, by simp only [FpFormat.add, h0, if_false]⟩

/-! ### Correct rounding (42_fp_arith_convert.md R131 (c)) -/

theorem FpFormat.one_pos (F : FpFormat) : 0 < F.one := Nat.two_pow_pos _

section Rounding
variable {F : FpFormat} (he : 2 ≤ F.ebits) (hf : 1 ≤ F.fbits)
include he hf

theorem FpFormat.add_correct (x y : Bool) (m n : Nat) :
    CorrectlyRounded F (F.add (.finite x m) (.finite y n)) (signedUnits x m + signedUnits y n) 1 := by
  obtain ⟨neg, k, hk, hadd⟩ := F.add_finite x y m n
  rw [hadd]
  exact F.round_correct neg k 1 Nat.one_pos he hf _ hk

theorem FpFormat.sub_correct (x y : Bool) (m n : Nat) :
    CorrectlyRounded F (F.sub (.finite x m) (.finite y n)) (signedUnits x m - signedUnits y n) 1 := by
  rw [Int.sub_eq_add_neg, ← signedUnits_not]
  exact FpFormat.add_correct he hf x (!y) m n

theorem FpFormat.mul_correct (x y : Bool) (m n : Nat) :
    CorrectlyRounded F (F.mul (.finite x m) (.finite y n)) (signedUnits x m * signedUnits y n) F.one :=
  F.round_correct _ _ _ F.one_pos he hf _ (signedUnits_mul x y m n)

theorem FpFormat.div_correct (x y : Bool) (m : Nat) {n : Nat} (hn : n ≠ 0) :
    CorrectlyRounded F (F.div (.finite x m) (.finite y n)) (signedUnits (x != y) (m * F.one)) n := by
  rw [FpFormat.div, if_neg hn]
  exact F.round_correct _ _ _ (Nat.pos_of_ne_zero hn) he hf _ rfl

theorem FpFormat.convert_correct (G : FpFormat) (x : Bool) (m : Nat) :
    CorrectlyRounded F (F.convert G (.finite x m)) (signedUnits x m * F.one) G.one :=
  F.round_correct _ _ _ G.one_pos he hf _ (signedUnits_mul_natCast x m _)

theorem FpFormat.ofInt_correct (k : Int) : CorrectlyRounded F (F.ofInt k) (k * F.one) 1 := by
  refine F.round_correct _ _ _ Nat.one_pos he hf _ ?_
  rw [← signedUnits_mul_natCast, signedUnits_natAbs]

end Rounding

/-- Settles O33: every finite result is one rounding of the exact one, and that rounding is correct. -/
theorem arithmeticIsCorrectlyRounded : Obligations.ArithmeticIsCorrectlyRounded := by
  have he : 2 ≤ binary32.ebits := by decide
  have hf : 1 ≤ binary32.fbits := by decide
  have he' : 2 ≤ binary64.ebits := by decide
  have hf' : 1 ≤ binary64.fbits := by decide
  refine ⟨fun a b x y m n ha hb => ?_, fun a b x y m n ha hb => ?_, fun a => ?_⟩
  · simp only [fpAdd32, fpSub32, fpMul32, fpDiv32, fpF2D, ha, hb]
    exact ⟨FpFormat.add_correct he hf x y m n, FpFormat.sub_correct he hf x y m n,
      FpFormat.mul_correct he hf x y m n, FpFormat.div_correct he hf x y m,
      FpFormat.convert_correct he' hf' binary32 x m⟩
  · simp only [fpAdd64, fpSub64, fpMul64, fpDiv64, fpD2F, ha, hb]
    exact ⟨FpFormat.add_correct he' hf' x y m n, FpFormat.sub_correct he' hf' x y m n,
      FpFormat.mul_correct he' hf' x y m n, FpFormat.div_correct he' hf' x y m,
      FpFormat.convert_correct he hf binary64 x m⟩
  · exact ⟨FpFormat.ofInt_correct he hf a.toInt, FpFormat.ofInt_correct he' hf' a.toInt⟩

/-! ### Zeros and infinities (42_fp_arith_convert.md R131 (b), R132 to R135) -/

theorem FpFormat.mul_zero_factor (F : FpFormat) (x y : Bool) {m n : Nat} (h : m * n = 0) :
    F.mul (.finite x m) (.finite y n) = F.signed (x != y) 0 := by
  rw [FpFormat.mul, h, F.round_zero]

theorem FpFormat.div_zero_dividend (F : FpFormat) (x y : Bool) {n : Nat} (hn : n ≠ 0) :
    F.div (.finite x 0) (.finite y n) = F.signed (x != y) 0 := by
  rw [FpFormat.div, if_neg hn, Nat.zero_mul, F.round_zero]

theorem FpFormat.div_zero_divisor (F : FpFormat) (x y : Bool) {m : Nat} (hm : m ≠ 0) :
    F.div (.finite x m) (.finite y 0) = F.infinity (x != y) := by
  rw [FpFormat.div, if_pos rfl, if_neg hm]

/-- The operations of a format obey the rules, read through any coding of its values. -/
theorem FpFormat.zeroAndInfinityRules (F : FpFormat) {w : Nat} (value : BitVec w → FpDatum) :
    ZeroAndInfinityRules value (fun a b => F.add (value a) (value b)) (fun a b => F.sub (value a) (value b))
      (fun a b => F.mul (value a) (value b)) (fun a b => F.div (value a) (value b))
      (fun neg => F.signed neg 0) F.infinity where
  add_negative a b x m ha hb := by
    rw [ha, hb, F.add_cancels (signedUnits_add_not x m), Bool.and_not_self]
  sub_equal a b x m ha hb := by
    rw [ha, hb, FpFormat.sub, FpDatum.negate, F.add_cancels (signedUnits_add_not x m), Bool.and_not_self]
  zero_terms a b x y ha hb := by
    have h (z : Bool) : signedUnits x 0 + signedUnits z 0 = 0 := by rw [signedUnits_zero, signedUnits_zero]; rfl
    rw [ha, hb, FpFormat.sub, FpDatum.negate]
    exact ⟨F.add_cancels (h y), F.add_cancels (h (!y))⟩
  inf_finite_terms a b x y m ha hb := by
    rw [ha, hb]
    exact ⟨rfl, rfl, rfl, rfl⟩
  inf_terms a b x ha := by
    refine ⟨fun hb => ?_, fun hb => ?_⟩ <;> simp [ha, hb, FpFormat.sub, FpDatum.negate, FpFormat.add]
  zero_factor a b x y m n ha hb h := by rw [ha, hb, F.mul_zero_factor x y h]
  inf_factor a b x y m ha hb hm := by
    rw [ha, hb, FpFormat.mul, FpFormat.mul, if_neg hm, if_neg hm, bne_comm]
    exact ⟨rfl, rfl⟩
  inf_factors a b x y ha hb := by rw [ha, hb, FpFormat.mul]
  zero_quotient a b x y m ha hb hm := by
    rw [ha, hb, F.div_zero_dividend x y hm, F.div_zero_divisor y x hm, bne_comm]
    exact ⟨rfl, rfl⟩
  inf_quotient a b x y m ha hb := by
    rw [ha, hb, FpFormat.div, FpFormat.div, bne_comm]
    exact ⟨rfl, rfl⟩

/-- Settles O34: the rules of each format, with its zeros and infinities written out as patterns. -/
theorem zeroAndInfinityResults : Obligations.ZeroAndInfinityResults := by
  have hzero : (fun neg => binary32.signed neg 0) = fun neg => .pattern (if neg then 0x80000000 else 0) := by
    funext neg; cases neg <;> rfl
  have hinf : binary32.infinity = fun neg => .pattern (if neg then 0xFF800000 else 0x7F800000) := by
    funext neg; cases neg <;> rfl
  have hzero' : (fun neg => binary64.signed neg 0) =
      fun neg => .pattern (if neg then 0x8000000000000000 else 0) := by
    funext neg; cases neg <;> rfl
  have hinf' : binary64.infinity =
      fun neg => .pattern (if neg then 0xFFF0000000000000 else 0x7FF0000000000000) := by
    funext neg; cases neg <;> rfl
  have hint (F : FpFormat) : F.ofInt 0 = .pattern 0 := by
    rw [FpFormat.ofInt, Int.natAbs_zero, Nat.zero_mul, F.round_zero]; rfl
  refine ⟨?_, ?_, hint binary32, hint binary64⟩
  · rw [← hzero, ← hinf]
    exact binary32.zeroAndInfinityRules single
  · rw [← hzero', ← hinf']
    exact binary64.zeroAndInfinityRules double

end Sys2Proof.Machine

/-! What patterns denote, and the conversions that lose nothing (42_fp_arith_convert.md R130, R140 to R146). -/

namespace Sys2Proof.Machine

/-! ### The number 1 -/

theorem binary32_one : binary32.one = 2 ^ 149 := rfl

theorem binary64_one : binary64.one = 2 ^ 1074 := by
  have hexp : 2 ^ (binary64.ebits - 1) - 2 + binary64.fbits = 1074 := rfl
  rw [FpFormat.one, hexp]

/-- What a unit of binary32 is in units of binary64. -/
theorem binary64_one_eq : binary64.one = 2 ^ 925 * binary32.one := by
  rw [binary64_one, binary32_one, ← Nat.pow_add]

/-! ### The fields of a pattern (42_fp_arith_convert.md R130) -/

/-- What a pattern denotes, by its sign, exponent and fraction. -/
theorem FpFormat.unpack_fields (F : FpFormat) (he : 1 ≤ F.ebits) {w : Nat} (v : BitVec w) :
    let sign := v.getLsbD (F.ebits + F.fbits)
    let expo := (v.extractLsb' F.fbits F.ebits).toNat
    let frac := (v.extractLsb' 0 F.fbits).toNat
    (expo = 2 ^ F.ebits - 1 → frac = 0 → F.unpack v.toNat = .inf sign) ∧
    (expo = 2 ^ F.ebits - 1 → frac ≠ 0 → F.unpack v.toNat = .nan) ∧
    (expo = 0 → F.unpack v.toNat = .finite sign frac) ∧
    (0 < expo → expo < 2 ^ F.ebits - 1 →
      F.unpack v.toNat = .finite sign ((2 ^ F.fbits + frac) * 2 ^ (expo - 1))) := by
  intro sign expo frac
  have hsign : decide (v.toNat / F.signUnit % 2 = 1) = sign := by
    rw [FpFormat.signUnit, ← Nat.testBit_eq_decide_div_mod_eq]; rfl
  have hexpo : v.toNat / 2 ^ F.fbits % 2 ^ F.ebits = expo := by
    rw [← Nat.shiftRight_eq_div_pow, ← BitVec.extractLsb'_toNat]
  have hfrac : v.toNat % 2 ^ F.fbits = frac := by
    rw [← Nat.shiftRight_zero (n := v.toNat), ← BitVec.extractLsb'_toNat]
  have hmax : 2 ^ F.ebits - 1 ≠ 0 := by
    have := Nat.pow_le_pow_right (n := 2) (by omega) he
    omega
  simp only [FpFormat.unpack, hsign, hexpo, hfrac]
  refine ⟨fun h h0 => ?_, fun h h0 => ?_, fun h => ?_, fun h0 h => ?_⟩
  · rw [if_pos h, if_pos h0]
  · rw [if_pos h, if_neg h0]
  · rw [if_neg (h ▸ hmax.symm), if_pos h]
  · rw [if_neg h.ne, if_neg h0.ne']

/-- Settles O31: the widths of the two formats. -/
theorem patternsDenoteIeeeValues : Obligations.PatternsDenoteIeeeValues :=
  ⟨binary32.unpack_fields (by decide), binary64.unpack_fields (by decide), binary32_one, binary64_one⟩

/-! ### Patterns that denote a datum -/

/-- Infinity is a pattern without a sign bit. -/
theorem FpFormat.infPattern_lt_signUnit (F : FpFormat) : F.infPattern < F.signUnit := by
  rw [FpFormat.infPattern, FpFormat.signUnit, Nat.pow_add]
  exact Nat.mul_lt_mul_of_pos_right (Nat.sub_lt (Nat.two_pow_pos _) Nat.one_pos) (Nat.two_pow_pos _)

theorem FpFormat.signed_lt (F : FpFormat) (neg : Bool) {c : Nat} (h : c < F.signUnit) :
    (if neg then F.signUnit else 0) + c < 2 * F.signUnit := by
  cases neg <;> simp <;> omega

theorem single_isLt (a : Word) : a.toNat < 2 * binary32.signUnit := a.isLt

theorem double_isLt (v : DWord) : v.toNat < 2 * binary64.signUnit := v.isLt

/-- The patterns of binary32 are the words. -/
theorem exists_word {v : Nat} (hv : v < 2 * binary32.signUnit) : ∃ a : Word, a.toNat = v :=
  ⟨BitVec.ofNatLT v hv, BitVec.toNat_ofNatLT ..⟩

/-- The patterns of binary64 are the double words. -/
theorem exists_dword {v : Nat} (hv : v < 2 * binary64.signUnit) : ∃ a : DWord, a.toNat = v :=
  ⟨BitVec.ofNatLT v hv, BitVec.toNat_ofNatLT ..⟩

/-- Every pattern is a sign bit and the rest. -/
theorem FpFormat.exists_signed (F : FpFormat) {v : Nat} (hv : v < 2 * F.signUnit) :
    ∃ neg : Bool, ∃ c < F.signUnit, v = (if neg then F.signUnit else 0) + c := by
  rcases Nat.lt_or_ge v F.signUnit with h | h
  · exact ⟨false, v, h, by simp⟩
  · exact ⟨true, v - F.signUnit, by omega, by simp; omega⟩

/-- The magnitudes below infinity denote numbers. -/
theorem FpFormat.unpack_finite (F : FpFormat) (neg : Bool) {c : Nat} (h : c < F.infPattern) :
    F.unpack ((if neg then F.signUnit else 0) + c) = .finite neg (F.magnitudeUnits c) := by
  have hexpo : c / 2 ^ F.fbits < 2 ^ F.ebits - 1 := (Nat.div_lt_iff_lt_mul (Nat.two_pow_pos _)).mpr h
  rw [F.unpack_signed neg c (h.trans F.infPattern_lt_signUnit), if_neg hexpo.ne]

/-- The infinities of a format are patterns of it. -/
theorem FpFormat.unpack_infinity (F : FpFormat) (neg : Bool) :
    F.unpack ((if neg then F.signUnit else 0) + F.infPattern) = .inf neg := by
  rw [F.unpack_signed neg _ F.infPattern_lt_signUnit, FpFormat.infPattern,
    Nat.mul_div_cancel _ (Nat.two_pow_pos _), if_pos rfl, Nat.mul_mod_left, if_pos rfl]

/-- A pattern of an infinity is the one of its sign. -/
theorem FpFormat.infinity_of_unpack {F : FpFormat} {v : Nat} {x : Bool} (hv : v < 2 * F.signUnit)
    (h : F.unpack v = .inf x) : F.infinity x = .pattern v := by
  obtain ⟨neg, c, hc, rfl⟩ := F.exists_signed hv
  rw [F.unpack_signed neg c hc] at h
  split at h
  · rename_i hexpo
    split at h <;> cases h
    rename_i hfrac
    have hinf : c = F.infPattern := by
      rw [← Nat.div_add_mod c (2 ^ F.fbits), hexpo, hfrac, Nat.add_zero, Nat.mul_comm]; rfl
    rw [hinf]; rfl
  · cases h

/-- A pattern of a number is a sign and a magnitude below infinity. -/
theorem FpFormat.exists_magnitude_of_unpack {F : FpFormat} {v : Nat} {x : Bool} {m : Nat}
    (hv : v < 2 * F.signUnit) (h : F.unpack v = .finite x m) :
    ∃ c < F.infPattern, v = (if x then F.signUnit else 0) + c ∧ m = F.magnitudeUnits c := by
  obtain ⟨neg, c, hc, rfl⟩ := F.exists_signed hv
  rw [F.unpack_signed neg c hc] at h
  split at h
  · split at h <;> cases h
  · rename_i hexpo
    cases h
    refine ⟨c, ?_, rfl, rfl⟩
    have hlt : c / 2 ^ F.fbits < 2 ^ F.ebits := by
      rw [Nat.div_lt_iff_lt_mul (Nat.two_pow_pos _), ← Nat.pow_add]; exact hc
    exact (Nat.div_lt_iff_lt_mul (Nat.two_pow_pos _)).mp (by omega)

/-! ### Significands and the steps they count -/

/-- `R` steps of `2 ^ k` units: a significand that has its full width but in the lowest step. -/
def FpFormat.FullWidth (F : FpFormat) (R k : Nat) : Prop := R < 2 ^ (F.fbits + 1) ∧ (0 < k → 2 ^ F.fbits ≤ R)

/-- A magnitude is the step and the significand, one after the other. -/
theorem FpFormat.exists_fullWidth_magnitude (F : FpFormat) (c : Nat) :
    ∃ R k, F.FullWidth R k ∧ c = k * 2 ^ F.fbits + R := by
  have hB : 0 < 2 ^ F.fbits := Nat.two_pow_pos _
  have hT : 2 ^ (F.fbits + 1) = 2 * 2 ^ F.fbits := Nat.pow_succ'
  have hfrac := Nat.mod_lt c hB
  have hc := Nat.div_add_mod' c (2 ^ F.fbits)
  cases hk : c / 2 ^ F.fbits with
  | zero =>
    rw [hk] at hc
    exact ⟨c, 0, ⟨by omega, by omega⟩, by omega⟩
  | succ k =>
    rw [hk, Nat.succ_mul] at hc
    exact ⟨2 ^ F.fbits + c % 2 ^ F.fbits, k, ⟨by omega, by omega⟩, by omega⟩

/-- What the magnitude of a step and a significand denotes. -/
theorem FpFormat.FullWidth.magnitudeUnits {F : FpFormat} {R k : Nat} (h : F.FullWidth R k) :
    F.magnitudeUnits (k * 2 ^ F.fbits + R) = R * 2 ^ k :=
  F.magnitudeUnits_round k R h.1.le h.2

/-- A short significand at any step is one of full width at some step: shift it up while there is room. -/
theorem FpFormat.exists_fullWidth_units (F : FpFormat) {s : Nat} (hs : s ≤ 2 ^ (F.fbits + 1)) (j : Nat) :
    ∃ R k, F.FullWidth R k ∧ R * 2 ^ k = s * 2 ^ j := by
  have hT : 2 ^ (F.fbits + 1) = 2 * 2 ^ F.fbits := Nat.pow_succ'
  induction j with
  | zero =>
    rcases hs.lt_or_eq with h | h
    · exact ⟨s, 0, ⟨h, by omega⟩, rfl⟩
    · exact ⟨2 ^ F.fbits, 1, ⟨Nat.pow_lt_pow_succ Nat.one_lt_two, fun _ => le_rfl⟩, by rw [h, hT]; ring⟩
  | succ j ih =>
    obtain ⟨R, k, ⟨hlt, hfull⟩, heq⟩ := ih
    have hnext : s * 2 ^ (j + 1) = 2 * (R * 2 ^ k) := by rw [heq]; ring
    by_cases h : 2 ^ F.fbits ≤ R
    · exact ⟨R, k + 1, ⟨hlt, fun _ => h⟩, by rw [hnext]; ring⟩
    · obtain rfl : k = 0 := by by_contra hk; exact h (hfull (Nat.pos_of_ne_zero hk))
      exact ⟨2 * R, 0, ⟨by omega, by omega⟩, by rw [hnext]; ring⟩

/-! ### Rounding what a format holds -/

theorem roundHalfEven_mul (R : Nat) {D : Nat} (hD : 0 < D) : roundHalfEven (R * D) D = R := by
  simp [roundHalfEven, Nat.mul_div_cancel R hD, hD]

/-- A significand of full width is rounded at its own step. -/
theorem FpFormat.FullWidth.log2 {F : FpFormat} {R k : Nat} (h : F.FullWidth R k) :
    Nat.log2 (R * 2 ^ k) - F.fbits = k := by
  obtain ⟨hlt, hfull⟩ := h
  cases k with
  | zero =>
    rcases Nat.eq_zero_or_pos R with rfl | hR
    · simp
    · have := (Nat.log2_lt hR.ne').mpr hlt
      rw [Nat.pow_zero, Nat.mul_one]; omega
  | succ k =>
    have hlog : Nat.log2 (R * 2 ^ (k + 1)) = F.fbits + (k + 1) := by
      have hge : 2 ^ (F.fbits + (k + 1)) ≤ R * 2 ^ (k + 1) := by
        rw [Nat.pow_add]; exact Nat.mul_le_mul_right _ (hfull k.succ_pos)
      refine (Nat.log2_eq_iff (Nat.lt_of_lt_of_le (Nat.two_pow_pos _) hge).ne').mpr ⟨hge, ?_⟩
      rw [Nat.add_right_comm, Nat.pow_add _ (F.fbits + 1)]
      exact Nat.mul_lt_mul_of_pos_right hlt (Nat.two_pow_pos _)
    omega

/-- A magnitude below infinity is what its number of units is rounded to. -/
theorem FpFormat.roundMagnitude_magnitudeUnits (F : FpFormat) {c d : Nat} (hc : c < F.infPattern) (hd : 0 < d) :
    F.roundMagnitude (F.magnitudeUnits c * d) d = c := by
  obtain ⟨R, k, h, rfl⟩ := F.exists_fullWidth_magnitude c
  have hround : roundHalfEven (R * 2 ^ k * d) (d * 2 ^ k) = R := by
    rw [Nat.mul_assoc, Nat.mul_comm (2 ^ k)]
    exact roundHalfEven_mul R (Nat.mul_pos hd (Nat.two_pow_pos _))
  simp only [FpFormat.roundMagnitude, h.magnitudeUnits, Nat.mul_div_cancel _ hd, h.log2, hround]
  exact Nat.min_eq_left hc.le

/-- A pattern of a number is what the number is rounded to. -/
theorem FpFormat.round_of_unpack {F : FpFormat} {v : Nat} {x : Bool} {m d : Nat} (hv : v < 2 * F.signUnit)
    (h : F.unpack v = .finite x m) (hd : 0 < d) : F.round x (m * d) d = .pattern v := by
  obtain ⟨c, hc, rfl, rfl⟩ := FpFormat.exists_magnitude_of_unpack hv h
  rw [FpFormat.round, F.roundMagnitude_magnitudeUnits hc hd]; rfl

/-- The numbers a format holds: a significand at any step, below the overflow of the largest exponent. -/
theorem FpFormat.exists_pattern (F : FpFormat) (he : 2 ≤ F.ebits) (neg : Bool) {s j : Nat}
    (hs : s ≤ 2 ^ (F.fbits + 1)) (hmax : s * 2 ^ j < 2 ^ (F.fbits + (2 ^ F.ebits - 2))) :
    ∃ v < 2 * F.signUnit, F.unpack v = .finite neg (s * 2 ^ j) := by
  obtain ⟨R, k, h, heq⟩ := F.exists_fullWidth_units hs j
  have hE : 2 ^ 2 ≤ 2 ^ F.ebits := Nat.pow_le_pow_right (by omega) he
  have hk : k < 2 ^ F.ebits - 2 := by
    rcases Nat.eq_zero_or_pos k with rfl | hk
    · omega
    · have : 2 ^ (F.fbits + k) < 2 ^ (F.fbits + (2 ^ F.ebits - 2)) := by
        calc 2 ^ (F.fbits + k) = 2 ^ F.fbits * 2 ^ k := Nat.pow_add ..
          _ ≤ R * 2 ^ k := Nat.mul_le_mul_right _ (h.2 hk)
          _ = s * 2 ^ j := heq
          _ < _ := hmax
      have := (Nat.pow_lt_pow_iff_right (by omega)).mp this
      omega
  have hc : k * 2 ^ F.fbits + R < F.infPattern := by
    calc k * 2 ^ F.fbits + R < k * 2 ^ F.fbits + 2 ^ (F.fbits + 1) := Nat.add_lt_add_left h.1 _
      _ = (k + 2) * 2 ^ F.fbits := by ring
      _ ≤ F.infPattern := Nat.mul_le_mul_right _ (by omega)
  exact ⟨_, F.signed_lt neg (hc.trans F.infPattern_lt_signUnit), by
    rw [F.unpack_finite neg hc, h.magnitudeUnits, heq]⟩

/-- How a significand of at most `b` bits, shifted up, is seen to stay below the overflow. -/
theorem mul_two_pow_lt {s b j t : Nat} (hs : s ≤ 2 ^ b) (ht : b + j < t) : s * 2 ^ j < 2 ^ t :=
  calc s * 2 ^ j ≤ 2 ^ b * 2 ^ j := Nat.mul_le_mul_right _ hs
    _ = 2 ^ (b + j) := (Nat.pow_add ..).symm
    _ < 2 ^ t := Nat.pow_lt_pow_right Nat.one_lt_two ht

/-! ### Widening (42_fp_arith_convert.md R141) -/

/-- Every number of a format is a significand at a step of the format. -/
theorem FpFormat.exists_significand_of_unpack {F : FpFormat} {v : Nat} {x : Bool} {m : Nat}
    (h : F.unpack v = .finite x m) : ∃ s j, s ≤ 2 ^ (F.fbits + 1) ∧ j < 2 ^ F.ebits ∧ m = s * 2 ^ j := by
  have hfrac := Nat.mod_lt v (Nat.two_pow_pos F.fbits)
  have hexpo := Nat.mod_lt (v / 2 ^ F.fbits) (Nat.two_pow_pos F.ebits)
  have hT : 2 ^ (F.fbits + 1) = 2 * 2 ^ F.fbits := Nat.pow_succ'
  simp only [FpFormat.unpack] at h
  split at h
  · split at h <;> cases h
  · split at h <;> cases h
    · exact ⟨_, 0, by omega, Nat.two_pow_pos _, (Nat.mul_one _).symm⟩
    · exact ⟨_, _, by omega, by omega, rfl⟩

/-- Every number that is a single is a double. -/
theorem exists_double_of_single {a : Word} {x : Bool} {m : Nat} (h : single a = .finite x m) :
    ∃ v : DWord, double v = .finite x (m * 2 ^ 925) := by
  obtain ⟨s, j, hs, hj, rfl⟩ := FpFormat.exists_significand_of_unpack h
  change s ≤ 2 ^ 24 at hs
  change j < 2 ^ 8 at hj
  have hs' : s ≤ 2 ^ (binary64.fbits + 1) := hs.trans (Nat.pow_le_pow_right (by omega) (by decide))
  have hexp : 24 + (j + 925) < binary64.fbits + (2 ^ binary64.ebits - 2) := by
    rw [show binary64.fbits + (2 ^ binary64.ebits - 2) = 2098 from rfl]; omega
  obtain ⟨v, hv, hval⟩ := binary64.exists_pattern (by decide) x hs' (mul_two_pow_lt hs hexp)
  obtain ⟨v, rfl⟩ := exists_dword hv
  have hsplit : s * 2 ^ (j + 925) = s * 2 ^ j * 2 ^ 925 := by rw [Nat.mul_assoc, ← Nat.pow_add]
  exact ⟨v, by rw [double, hval, hsplit]⟩

/-- Settles O35: a single is a double, the double is what it is rounded to, and back likewise. -/
theorem wideningIsExact : Obligations.WideningIsExact := by
  intro a hnan
  cases ha : single a with
  | nan => exact absurd ha hnan
  | inf x =>
    obtain ⟨v, hv⟩ := exists_dword (binary64.signed_lt x binary64.infPattern_lt_signUnit)
    have hval : double v = .inf x := by rw [double, hv, binary64.unpack_infinity]
    refine ⟨v, ?_, fun y h => ?_, fun _ _ h => (nomatch h), ?_⟩
    · rw [fpF2D, ha]
      exact FpFormat.infinity_of_unpack (double_isLt v) hval
    · rw [← h, hval]
    · rw [fpD2F, hval]
      exact FpFormat.infinity_of_unpack (single_isLt a) ha
  | finite x m =>
    obtain ⟨v, hval⟩ := exists_double_of_single ha
    have hwiden : m * binary64.one = m * 2 ^ 925 * binary32.one := by rw [binary64_one_eq, Nat.mul_assoc]
    refine ⟨v, ?_, fun _ h => (nomatch h), fun y n h => ?_, ?_⟩
    · rw [fpF2D, ha, FpFormat.convert, hwiden]
      exact FpFormat.round_of_unpack (double_isLt v) hval binary32.one_pos
    · cases h; exact hval
    · rw [fpD2F, hval, FpFormat.convert, ← hwiden]
      exact FpFormat.round_of_unpack (single_isLt a) ha binary64.one_pos

/-! ### Integers (42_fp_arith_convert.md R140, R142, R144 to R146) -/

/-- A number whose truncation fits 32 signed bits converts to it. -/
theorem FpFormat.toInt32_fits (F : FpFormat) {x : Bool} {m : Nat} {q : Int}
    (hq : signedUnits x (m / F.one) = q) (hlo : -2147483648 ≤ q) (hhi : q ≤ 2147483647) :
    F.toInt32 (.finite x m) = some (BitVec.ofInt 32 q) := by
  simp only [FpFormat.toInt32, hq]
  exact if_pos ⟨hlo, hhi⟩

/-- A number beyond those has no stated result. -/
theorem FpFormat.toInt32_outside (F : FpFormat) {x : Bool} {m : Nat} {q : Int}
    (hq : signedUnits x (m / F.one) = q) (h : q < -2147483648 ∨ 2147483647 < q) :
    F.toInt32 (.finite x m) = none := by
  simp only [FpFormat.toInt32, hq]
  exact if_neg (by omega)

theorem toInt_ofInt_of_fits {q : Int} (hlo : -2147483648 ≤ q) (hhi : q ≤ 2147483647) :
    (BitVec.ofInt 32 q).toInt = q := by
  rw [BitVec.toInt_ofInt]
  exact Int.bmod_eq_of_le (by omega) (by omega)

/-- Settles O37: the number 1 is `2 ^ 149` and `2 ^ 1074` units. -/
theorem conversionToIntegerTruncates : Obligations.ConversionToIntegerTruncates := by
  refine ⟨fun a => ⟨fun x m ha => ?_, fun ha => by rw [fpF2I, ha]; rfl, fun x ha => by rw [fpF2I, ha]; rfl⟩,
    fun a => ⟨fun x m ha => ?_, fun ha => by rw [fpD2I, ha]; rfl, fun x ha => by rw [fpD2I, ha]; rfl⟩⟩
  · rw [fpF2I, ha, ← binary32_one]
    exact ⟨fun hlo hhi => ⟨_, binary32.toInt32_fits rfl hlo hhi, toInt_ofInt_of_fits hlo hhi⟩,
      binary32.toInt32_outside rfl⟩
  · rw [fpD2I, ha, ← binary64_one]
    exact ⟨fun hlo hhi => ⟨_, binary64.toInt32_fits rfl hlo hhi, toInt_ofInt_of_fits hlo hhi⟩,
      binary64.toInt32_outside rfl⟩

/-- An integer that fits a significand has a pattern of its value, and converts to it. -/
theorem FpFormat.ofInt_exact (F : FpFormat) (he : 2 ≤ F.ebits) (k : Int) (hs : k.natAbs ≤ 2 ^ (F.fbits + 1))
    (hmax : k.natAbs * F.one < 2 ^ (F.fbits + (2 ^ F.ebits - 2))) :
    ∃ v < 2 * F.signUnit, F.ofInt k = .pattern v ∧ F.unpack v = .finite (decide (k < 0)) (k.natAbs * F.one) := by
  obtain ⟨v, hv, hval⟩ := F.exists_pattern he (decide (k < 0)) hs hmax
  refine ⟨v, hv, ?_, hval⟩
  have hround := FpFormat.round_of_unpack hv hval Nat.one_pos
  rwa [Nat.mul_one] at hround

/-- Converting back the number an integer converted to. -/
theorem FpFormat.toInt32_integer (F : FpFormat) (a : Word) :
    F.toInt32 (.finite (decide (a.toInt < 0)) (a.toInt.natAbs * F.one)) = some a := by
  have hq : signedUnits (decide (a.toInt < 0)) (a.toInt.natAbs * F.one / F.one) = a.toInt := by
    rw [Nat.mul_div_cancel _ F.one_pos, signedUnits_natAbs]
  rw [F.toInt32_fits hq (BitVec.le_toInt a) (by have := BitVec.toInt_lt (x := a); omega), BitVec.ofInt_toInt]

/-- Settles O36: 32 bits fit the significand of a double, and 24 that of a single. -/
theorem integersConvertExactly : Obligations.IntegersConvertExactly := by
  refine ⟨fun a => ?_, fun a ha => ?_⟩
  · have hk : a.toInt.natAbs ≤ 2 ^ 31 := by
      have := BitVec.le_toInt a; have := BitVec.toInt_lt (x := a); omega
    obtain ⟨v, hv, hround, hval⟩ := binary64.ofInt_exact (by decide) a.toInt
      (hk.trans (Nat.pow_le_pow_right (by omega) (by decide))) (mul_two_pow_lt hk (by decide))
    obtain ⟨v, rfl⟩ := exists_dword hv
    refine ⟨v, hround, ⟨_, _, hval, ?_⟩, ?_⟩
    · rw [← signedUnits_mul_natCast, signedUnits_natAbs, binary64_one, Nat.cast_pow]; rfl
    · rw [fpD2I, double, hval, binary64.toInt32_integer]
  · obtain ⟨v, hv, hround, hval⟩ := binary32.ofInt_exact (by decide) a.toInt ha
      (mul_two_pow_lt ha (by decide))
    obtain ⟨v, rfl⟩ := exists_word hv
    refine ⟨v, hround, ⟨_, _, hval, ?_⟩, ?_⟩
    · rw [← signedUnits_mul_natCast, signedUnits_natAbs, binary32_one, Nat.cast_pow]; rfl
    · rw [fpF2I, single, hval, binary32.toInt32_integer]

end Sys2Proof.Machine

/-! Integer multiply and divide (43_int_muldiv.md R150 to R154). -/

namespace Sys2Proof.Machine

/-- Settles O20: the low 32 bits of the product do not depend on how the operands are read. -/
theorem multiplyResults : Obligations.MultiplyResults := by
  intro s rd rs rc a b hs hc
  exact ⟨regReg_completes mulSigned hs hc (mulSigned_eq a b),
    regReg_completes mulUnsigned hs hc (mulUnsigned_eq a b)⟩

/-- With a divisor that is not zero, a division completes with what its operation makes of the two operands. -/
theorem regRegDivide_completes (op : Word → Word → Word) {s : State} {rd rs rc : RegNum} {a b v : Word}
    (hs : s.readR rs = a) (hc : s.readR rc = b) (hb : b ≠ 0) (hv : op a b = v) :
    Completes (regRegDivide op rd rs rc s) (IntResult s rd v) := by
  rw [regRegDivide, if_neg (hc ▸ hb)]
  exact regReg_completes op hs hc hv

/-- A zero divisor is a fault, whatever the operation and the dividend. -/
theorem regRegDivide_fault (op : Word → Word → Word) {s : State} {rc : RegNum} (rd rs : RegNum)
    (hc : s.readR rc = 0) : regRegDivide op rd rs rc s = .fault .divideByZero := if_pos hc

/-- The overflowing quotient, -2^31 over -1, wraps to -2^31 (43_int_muldiv.md R152). -/
theorem divSigned_overflow : divSigned 0x80000000 0xFFFFFFFF = 0x80000000 := by decide

/-- Settles O21: the divisor decides between the fault and the quotient, the overflowing one among the
quotients. -/
theorem divideResults : Obligations.DivideResults := by
  refine ⟨fun s rd rs rc a b hs hc hb => ⟨?div, ?divu⟩, fun s rd rs rc _ _ hc => ⟨?divZero, ?divuZero⟩,
    fun s rd rs rc hs hc => ?overflow⟩
  case div => exact regRegDivide_completes divSigned hs hc hb (divSigned_eq a b)
  case divu => exact regRegDivide_completes divUnsigned hs hc hb (divUnsigned_eq a b)
  case divZero => exact regRegDivide_fault divSigned rd rs hc
  case divuZero => exact regRegDivide_fault divUnsigned rd rs hc
  case overflow => exact regRegDivide_completes divSigned hs hc (by decide) divSigned_overflow

end Sys2Proof.Machine

/-! The floating-point comparisons: the outcome by value, the six predicates on it, and fpsr as the one thing
written (44_fp_compare.md R160 to R173). -/

namespace Sys2Proof.Machine

/-! ### The predicates (44_fp_compare.md R173) -/

section Predicates
variable (o : FpOrder)

theorem FpOrder.holdsEq_eq : o.holdsEq = decide (o = .eq) := by cases o <;> rfl

theorem FpOrder.holdsNe_eq : o.holdsNe = decide (o ≠ .eq) := by cases o <;> rfl

theorem FpOrder.holdsLt_eq : o.holdsLt = decide (o = .lt) := by cases o <;> rfl

theorem FpOrder.holdsGt_eq : o.holdsGt = decide (o = .gt) := by cases o <;> rfl

theorem FpOrder.holdsLe_eq : o.holdsLe = decide (o = .lt ∨ o = .eq) := by cases o <;> rfl

theorem FpOrder.holdsGe_eq : o.holdsGe = decide (o = .gt ∨ o = .eq) := by cases o <;> rfl

/-- NE is no order test: it holds on `unordered` too, wherever EQ does not. -/
theorem FpOrder.holdsNe_eq_not : o.holdsNe = !o.holdsEq := by
  rw [o.holdsNe_eq, o.holdsEq_eq, decide_not]

end Predicates

/-! ### The instructions -/

/-- A single comparison completes with its predicate on the outcome. -/
theorem compareSingle_completes {holds : FpOrder → Bool} {s : State} {fs fc : RegNum} {a b : Word} {v : Bool}
    (hs : s.readF fs = a) (hc : s.readF fc = b) (hv : holds (fpCmp32 a b) = v) :
    Completes (compareSingle holds fs fc s) (FpsrResult s v) := by
  rw [compareSingle, hs, hc, hv]
  exact completes_writeFpsr s v

/-- A double comparison whose fields name pairs completes with its predicate on the outcome. -/
theorem compareDouble_completes {holds : FpOrder → Bool} {s : State} {ds dc : RegNum} {ps pc : Pair}
    {a b : DWord} {v : Bool} (hps : s.pair ds = .ok ps) (hpc : s.pair dc = .ok pc) (ha : s.readPair ps = a)
    (hb : s.readPair pc = b) (hv : holds (fpCmp64 a b) = v) :
    Completes (compareDouble holds ds dc s) (FpsrResult s v) := by
  rw [compareDouble, hps, withOperand_ok, hpc, withOperand_ok, ha, hb, hv]
  exact completes_writeFpsr s v

/-- Settles O29: each instruction is the one shape, with its predicate. -/
theorem singleCompareResults : Obligations.SingleCompareResults := by
  intro s fs fc a b hs hc
  exact ⟨compareSingle_completes hs hc (FpOrder.holdsEq_eq _),
    compareSingle_completes hs hc (FpOrder.holdsNe_eq _), compareSingle_completes hs hc (FpOrder.holdsLt_eq _),
    compareSingle_completes hs hc (FpOrder.holdsGt_eq _), compareSingle_completes hs hc (FpOrder.holdsLe_eq _),
    compareSingle_completes hs hc (FpOrder.holdsGe_eq _)⟩

/-- Settles O30: likewise for pairs. -/
theorem doubleCompareResults : Obligations.DoubleCompareResults := by
  intro s ds dc ps pc a b hs hc ha hb
  exact ⟨compareDouble_completes hs hc ha hb (FpOrder.holdsEq_eq _),
    compareDouble_completes hs hc ha hb (FpOrder.holdsNe_eq _),
    compareDouble_completes hs hc ha hb (FpOrder.holdsLt_eq _),
    compareDouble_completes hs hc ha hb (FpOrder.holdsGt_eq _),
    compareDouble_completes hs hc ha hb (FpOrder.holdsLe_eq _),
    compareDouble_completes hs hc ha hb (FpOrder.holdsGe_eq _)⟩

/-! ### The outcome is by value -/

/-- The outcome of comparing finite values, in each of the three ways two integers can stand. -/
theorem FpDatum.compare_finite (x y : Bool) (m n : Nat) :
    signedUnits x m < signedUnits y n ∧ (finite x m).compare (finite y n) = .lt ∨
    signedUnits x m = signedUnits y n ∧ (finite x m).compare (finite y n) = .eq ∨
    signedUnits y n < signedUnits x m ∧ (finite x m).compare (finite y n) = .gt := by
  simp only [FpDatum.compare]
  rcases Int.lt_trichotomy (signedUnits x m) (signedUnits y n) with hlt | heq | hgt
  · exact .inl ⟨hlt, if_pos hlt⟩
  · exact .inr (.inl ⟨heq, by rw [heq, if_neg (Int.lt_irrefl _), if_pos rfl]⟩)
  · exact .inr (.inr ⟨hgt, by rw [if_neg (Int.lt_asymm hgt), if_neg (Int.ne_of_gt hgt)]⟩)

/-- The outcome names the order of the values: the three orders exclude one another. -/
theorem FpDatum.compare_finite_iff (x m y n) :
    ((finite x m).compare (finite y n) = .lt ↔ signedUnits x m < signedUnits y n) ∧
    ((finite x m).compare (finite y n) = .eq ↔ signedUnits x m = signedUnits y n) ∧
    ((finite x m).compare (finite y n) = .gt ↔ signedUnits x m > signedUnits y n) := by
  obtain ⟨h, ho⟩ | ⟨h, ho⟩ | ⟨h, ho⟩ := compare_finite x y m n <;> simp [ho] <;> omega

/-- A comparison is unordered for a NaN alone. -/
theorem FpDatum.compare_eq_unordered (a b : FpDatum) : a.compare b = .unordered ↔ a = .nan ∨ b = .nan := by
  cases a with
  | nan => simp [FpDatum.compare]
  | inf x =>
    cases b with
    | nan => simp [FpDatum.compare]
    | inf y => cases x <;> cases y <;> simp [FpDatum.compare]
    | finite y n => cases x <;> simp [FpDatum.compare]
  | finite x m =>
    cases b with
    | nan => simp [FpDatum.compare]
    | inf y => cases y <;> simp [FpDatum.compare]
    | finite y n => obtain ⟨-, h⟩ | ⟨-, h⟩ | ⟨-, h⟩ := compare_finite x y m n <;> simp [h]

theorem FpDatum.compare_inf_self (x : Bool) : (inf x).compare (inf x) = .eq := if_pos rfl

/-- Plus infinity is greater than all but a NaN and itself. -/
theorem FpDatum.compare_posInf {b : FpDatum} (hnan : b ≠ .nan) (hinf : b ≠ .inf false) :
    (inf false).compare b = .gt := by
  cases b with
  | nan => contradiction
  | inf y => cases y <;> trivial
  | finite y n => rfl

/-- Minus infinity is less than all but a NaN and itself. -/
theorem FpDatum.compare_negInf {b : FpDatum} (hnan : b ≠ .nan) (hinf : b ≠ .inf true) :
    (inf true).compare b = .lt := by
  cases b with
  | nan => contradiction
  | inf y => cases y <;> trivial
  | finite y n => rfl

/-- The outcome with the operands exchanged. -/
def FpOrder.swap : FpOrder → FpOrder
  | .lt => .gt
  | .eq => .eq
  | .gt => .lt
  | .unordered => .unordered

theorem FpOrder.swap_eq_gt {o : FpOrder} : o.swap = .gt ↔ o = .lt := by cases o <;> simp [FpOrder.swap]

theorem FpOrder.swap_eq_eq {o : FpOrder} : o.swap = .eq ↔ o = .eq := by cases o <;> simp [FpOrder.swap]

/-- Exchanging the operands exchanges less and greater. -/
theorem FpDatum.compare_swap (a b : FpDatum) : b.compare a = (a.compare b).swap := by
  cases a with
  | nan => cases b <;> rfl
  | inf x =>
    cases b with
    | nan => rfl
    | inf y => cases x <;> cases y <;> rfl
    | finite y n => cases x <;> rfl
  | finite x m =>
    cases b with
    | nan => rfl
    | inf y => cases y <;> rfl
    | finite y n =>
      obtain ⟨hlt, heq, hgt⟩ := compare_finite_iff y n x m
      obtain ⟨h, ho⟩ | ⟨h, ho⟩ | ⟨h, ho⟩ := compare_finite x y m n <;> rw [ho]
      · exact hgt.mpr h
      · exact heq.mpr h.symm
      · exact hlt.mpr h

theorem FpDatum.compare_lt_iff_gt (a b : FpDatum) : a.compare b = .lt ↔ b.compare a = .gt := by
  rw [compare_swap a b, FpOrder.swap_eq_gt]

theorem FpDatum.compare_eq_comm (a b : FpDatum) : a.compare b = .eq ↔ b.compare a = .eq := by
  rw [compare_swap a b, FpOrder.swap_eq_eq]

/-- What R173 says of the outcome, for any two data. -/
def FpDatum.ComparesByValue (a b : FpDatum) : Prop :=
  (a.compare b = .unordered ↔ a = .nan ∨ b = .nan) ∧
  (∀ x m y n, a = .finite x m → b = .finite y n →
    (a.compare b = .lt ↔ signedUnits x m < signedUnits y n) ∧
    (a.compare b = .eq ↔ signedUnits x m = signedUnits y n) ∧
    (a.compare b = .gt ↔ signedUnits x m > signedUnits y n)) ∧
  (∀ x, a = .inf x → b = .inf x → a.compare b = .eq) ∧
  (a = .inf false → b ≠ .nan → b ≠ .inf false → a.compare b = .gt) ∧
  (a = .inf true → b ≠ .nan → b ≠ .inf true → a.compare b = .lt) ∧
  (a.compare b = .lt ↔ b.compare a = .gt) ∧ (a.compare b = .eq ↔ b.compare a = .eq)

theorem FpDatum.comparesByValue (a b : FpDatum) : a.ComparesByValue b := by
  refine ⟨compare_eq_unordered a b, ?finite, ?same, ?above, ?below, compare_lt_iff_gt a b, compare_eq_comm a b⟩
  case finite =>
    rintro x m y n rfl rfl
    exact compare_finite_iff x m y n
  case same =>
    rintro x rfl rfl
    exact compare_inf_self x
  case above =>
    rintro rfl
    exact compare_posInf
  case below =>
    rintro rfl
    exact compare_negInf

/-- Settles O38: both formats compare the data their patterns denote, and the predicates read the outcome. -/
theorem comparisonIsByValue : Obligations.ComparisonIsByValue :=
  ⟨fun a b => (single a).comparesByValue (single b), fun a b => (double a).comparesByValue (double b),
    fun o => ⟨o.holdsEq_eq, o.holdsNe_eq_not, o.holdsLt_eq, o.holdsGt_eq, o.holdsLe_eq, o.holdsGe_eq⟩⟩

end Sys2Proof.Machine

/-! The control transfers: where each goes and what JAL and JALR leave in R31 (45_control_transfer.md R180 to
R193). -/

namespace Sys2Proof.Machine

/-! ### Jumps -/

theorem State.linkValue_four {s : State} (h : s.params.linkDelta = .four) : s.linkValue = s.pc + 8 := by
  rw [State.linkValue, State.nextPc, h]
  exact BitVec.add_assoc _ 4 4

theorem State.linkValue_zero {s : State} (h : s.params.linkDelta = .zero) : s.linkValue = s.pc + 4 := by
  rw [State.linkValue, State.nextPc, h]
  exact BitVec.add_zero _

/-- A jump and link under either value of `LINK_DELTA`. The target is computed from the state before R31 is
written, so JALR through R31 goes to the old value (R188). -/
theorem link_completes (s : State) (a : Word) :
    (s.params.linkDelta = .four →
      Completes (.next ((s.writeR 31 s.linkValue).jumpTo a)) (LinkResult s (s.pc + 8) a)) ∧
    (s.params.linkDelta = .zero →
      Completes (.next ((s.writeR 31 s.linkValue).jumpTo a)) (LinkResult s (s.pc + 4) a)) :=
  ⟨fun h => State.linkValue_four h ▸ completes_link s s.linkValue a,
    fun h => State.linkValue_zero h ▸ completes_link s s.linkValue a⟩

/-- Settles O39: each is a jump or a jump and link, to the offset target or to the register as read. -/
theorem jumpResults : Obligations.JumpResults := by
  refine ⟨fun s dest => ⟨?j, ?jal⟩, fun s rs a ha => ⟨?jr, ?jalr⟩⟩
  case j => exact completes_jumpTo s (s.jumpTarget dest)
  case jal => exact link_completes s (s.jumpTarget dest)
  case jr => exact ha ▸ completes_jumpTo s (s.readR rs)
  case jalr => exact ha ▸ link_completes s (s.readR rs)

/-! ### Branches -/

/-- A branch whose test decides `p` goes to its target when `p` holds. -/
theorem branch_completes_of_taken {s : State} {taken : Bool} {p : Prop} [Decidable p] (imm : Imm16)
    (h : taken = decide p) :
    Completes (branch taken imm s) (TransferResult s (if p then s.pc + 4 + imm.signExtend 32 else s.pc + 4)) := by
  have hb := completes_branch s taken imm
  simp only [h, decide_eq_true_eq] at hb ⊢
  exact hb

/-- A branch whose test decides `¬ p` falls through when `p` holds. -/
theorem branch_completes_of_not_taken {s : State} {taken : Bool} {p : Prop} [Decidable p] (imm : Imm16)
    (h : taken = decide (¬ p)) :
    Completes (branch taken imm s) (TransferResult s (if p then s.pc + 4 else s.pc + 4 + imm.signExtend 32)) := by
  rw [← ite_not]
  exact branch_completes_of_taken imm h

/-- Settles O40: each instruction is the one shape, and its test decides whether the branch is taken. -/
theorem branchResults : Obligations.BranchResults := by
  refine ⟨fun s rs imm a ha => ⟨?beqz, ?bnez⟩, fun s imm b hb => ⟨?bfpt, ?bfpf⟩⟩
  case beqz => exact branch_completes_of_taken imm (ha ▸ rfl)
  case bnez => exact branch_completes_of_not_taken imm (ha ▸ rfl)
  case bfpt => exact branch_completes_of_taken imm (by simp [hb])
  case bfpf => exact branch_completes_of_not_taken imm (by simp [hb])

end Sys2Proof.Machine

/-! The integer instructions with an immediate: arithmetic, shifts, LHI and set on comparison
(46_int_immediate.md R200 to R217). -/

namespace Sys2Proof.Machine

/-! ### The shape -/

/-- An instruction of the shape completes with what its operation makes of the operand. -/
theorem regImm_completes (op : Word → Word) {s : State} {rd rs : RegNum} {a v : Word} (hs : s.readR rs = a)
    (hv : op a = v) : Completes (regImm op rd rs s) (IntResult s rd v) := by
  rw [regImm, hs, hv]
  exact completes_writeR s rd v

/-! ### Arithmetic, bitwise operations and shifts -/

/-- The shifts by the amount that the five low bits of the immediate denote (46_int_immediate.md R209 to
R211). -/
theorem immediateShifts_complete {s : State} {rd rs : RegNum} {a : Word} (imm : Imm16) (hs : s.readR rs = a) :
    Completes (exec (.slli rd rs imm) s) (IntResult s rd (a <<< (imm.toNat % 32))) ∧
    Completes (exec (.srli rd rs imm) s) (IntResult s rd (a >>> (imm.toNat % 32))) ∧
    Completes (exec (.srai rd rs imm) s) (IntResult s rd (a.sshiftRight (imm.toNat % 32))) := by
  rw [← immShiftAmount_eq]
  exact ⟨regImm_completes (fun x => shiftLeft x (immShiftAmount imm)) hs (shiftLeft_eq a _),
    regImm_completes (fun x => shiftRightLogical x (immShiftAmount imm)) hs (shiftRightLogical_eq a _),
    regImm_completes (fun x => shiftRightArith x (immShiftAmount imm)) hs (shiftRightArith_eq a _)⟩

/-- LHI writes the immediate above sixteen zeros, from no register (46_int_immediate.md R208). -/
theorem lhi_completes (s : State) (rd : RegNum) (imm : Imm16) :
    Completes (exec (.lhi rd imm) s) (IntResult s rd (imm.zeroExtend 32 <<< 16)) :=
  highImm_eq imm ▸ completes_writeR s rd (highImm imm)

/-- Settles O22: each operation is the one on bit vectors, on the immediate as the instruction extends it. -/
theorem immediateArithmeticResults : Obligations.ImmediateArithmeticResults := by
  refine ⟨fun s rd rs imm a hs => ⟨?addi, ?addui, ?subi, ?subui, ?andi, ?ori, ?xori,
    immediateShifts_complete imm hs⟩, lhi_completes⟩
  case addi => exact regImm_completes (addWord · (sextImm imm)) hs (addWord_eq a _)
  case addui => exact regImm_completes (addWord · (zextImm imm)) hs (addWord_eq a _)
  case subi => exact regImm_completes (subWord · (sextImm imm)) hs (subWord_eq a _)
  case subui => exact regImm_completes (subWord · (zextImm imm)) hs (subWord_eq a _)
  case andi => exact regImm_completes (andWord · (zextImm imm)) hs rfl
  case ori => exact regImm_completes (orWord · (zextImm imm)) hs rfl
  case xori => exact regImm_completes (xorWord · (zextImm imm)) hs rfl

/-! ### Set on comparison -/

/-- A signed comparison with the sign-extended immediate is one with the integer the immediate denotes
(46_int_immediate.md R212 to R217). -/
theorem boolWord_signed_sextImm (r : Int → Int → Prop) [DecidableRel r] (a : Word) (imm : Imm16) :
    boolWord (decide (r a.toInt (sextImm imm).toInt)) = if r a.toInt imm.toInt then 1 else 0 := by
  rw [sextImm_toInt, boolWord_decide]

/-- Settles O23: the relation of each instruction as a word; the orders are those of the integers that the
operand and the immediate denote. -/
theorem immediateSetResults : Obligations.ImmediateSetResults := by
  intro s rd rs imm a hs
  refine ⟨?seqi, ?snei, ?slti, ?sgti, ?slei, ?sgei⟩
  case seqi => exact regImm_completes (setEq · (sextImm imm)) hs (setEq_eq a _)
  case snei => exact regImm_completes (setNe · (sextImm imm)) hs (setNe_eq a _)
  case slti => exact regImm_completes (setLt · (sextImm imm)) hs (boolWord_signed_sextImm (· < ·) a imm)
  case sgti => exact regImm_completes (setGt · (sextImm imm)) hs (boolWord_signed_sextImm (· > ·) a imm)
  case slei => exact regImm_completes (setLe · (sextImm imm)) hs (boolWord_signed_sextImm (· ≤ ·) a imm)
  case sgei => exact regImm_completes (setGe · (sextImm imm)) hs (boolWord_signed_sextImm (· ≥ ·) a imm)

end Sys2Proof.Machine

/-! Loads and stores: what they read and write, and where they stop (48_loads_stores.md R230 to R246). -/

namespace Sys2Proof.Machine

/-! ### Big-endian numbers as concatenated bytes -/

/-- The bytes read are those at the lower addresses, then the others (20_memory.md R32). -/
theorem Memory.readBE_add (m : Memory) (a n k : Nat) :
    m.readBE a (n + k) = m.readBE a n * 256 ^ k + m.readBE (a + n) k := by
  induction n generalizing a with
  | zero => simp [Memory.readBE]
  | succ n ih =>
    rw [Nat.add_right_comm, Memory.readBE, Memory.readBE, ih, Nat.add_assoc a 1 n, Nat.add_comm 1 n]
    ring

/-- Two runs of bytes, one after the other, are their concatenation. -/
theorem Memory.toNat_append_readBE {m : Memory} {a n k w : Nat} {x : BitVec w} {y : BitVec (8 * k)}
    (hx : x.toNat = m.readBE a n) (hy : y.toNat = m.readBE (a + n) k) :
    (x ++ y).toNat = m.readBE a (n + k) := by
  rw [BitVec.toNat_append, ← Nat.shiftLeft_add_eq_or_of_lt y.isLt, Nat.shiftLeft_eq, hx, hy, Nat.pow_mul]
  exact (m.readBE_add a n k).symm

theorem Memory.toNat_read (m : Memory) (a : Nat) : (m.read a).toNat = m.readBE a 1 := by
  simp [Memory.readBE]

theorem Memory.toNat_half (m : Memory) (a : Nat) : (m.read a ++ m.read (a + 1)).toNat = m.readBE a 2 :=
  toNat_append_readBE (k := 1) (m.toNat_read a) (m.toNat_read _)

theorem Memory.toNat_word (m : Memory) (a : Nat) :
    (m.read a ++ m.read (a + 1) ++ m.read (a + 2) ++ m.read (a + 3)).toNat = m.readBE a 4 :=
  toNat_append_readBE (k := 1) (toNat_append_readBE (k := 1) (m.toNat_half a) (m.toNat_read _)) (m.toNat_read _)

theorem Memory.toNat_double (m : Memory) (a : Nat) :
    ((m.read a ++ m.read (a + 1) ++ m.read (a + 2) ++ m.read (a + 3) : Word) ++
      (m.read (a + 4) ++ m.read (a + 5) ++ m.read (a + 6) ++ m.read (a + 7) : Word)).toNat = m.readBE a 8 :=
  toNat_append_readBE (k := 4) (m.toNat_word a) (m.toNat_word (a + 4))

/-! ### Loads -/

section Loads
variable {s : State} {n : Nat} {v : BitVec (8 * n)}

/-- An accepted load reads the value its bytes make up. -/
theorem State.memRead_of_toNat {a : Word} (ha : a.toNat % n = 0) (hr : Params.InRange s.params a.toNat n)
    (hv : v.toNat = s.mem.readBE a.toNat n) : s.memRead a n = .ok v :=
  State.memRead_ok.mpr ⟨⟨ha, hr⟩, by rw [← hv, BitVec.ofNat_toNat, BitVec.setWidth_eq]⟩

theorem loadInt_completes {ext : BitVec (8 * n) → Word} {rd rs : RegNum} {imm : Imm16}
    (h : s.memRead (s.readAddress rs imm) n = .ok v) :
    Completes (loadInt n ext rd rs imm s) (IntResult s rd (ext v)) := by
  rw [loadInt, h, withOperand_ok]
  exact completes_writeR s rd (ext v)

end Loads

/-- Settles O43: each is the one shape, on the byte, half word or word at the address. -/
theorem integerLoadResults : Obligations.IntegerLoadResults := by
  rintro s rd rs imm _ _ rfl rfl
  refine ⟨fun hr => ?byte, fun ha hr => ?half, fun ha hr => ?word⟩
  case byte =>
    have hread := State.memRead_of_toNat (Nat.mod_one _) hr (Memory.toNat_read _ _)
    exact ⟨loadInt_completes hread, loadInt_completes hread⟩
  case half =>
    have hread := State.memRead_of_toNat ha hr (Memory.toNat_half _ _)
    exact ⟨loadInt_completes hread, loadInt_completes hread⟩
  case word => exact loadInt_completes (State.memRead_of_toNat ha hr (Memory.toNat_word _ _))

/-- Settles O44: the word, or the two words, at the address go to the register or to the pair. -/
theorem floatLoadResults : Obligations.FloatLoadResults := by
  constructor
  · rintro s fd rs imm _ _ rfl rfl ha hr
    have hread : s.memRead (s.readAddress rs imm) 4 = .ok _ :=
      State.memRead_of_toNat ha hr (Memory.toNat_word _ _)
    rw [exec, execLf, hread, withOperand_ok]
    exact completes_writeF s fd _
  · rintro s dd rs imm p _ _ hp rfl rfl ha hr
    have hread : s.memRead (s.readAddress rs imm) 8 = .ok _ :=
      State.memRead_of_toNat ha hr (Memory.toNat_double _ _)
    rw [exec_ld_of_pair hp, hread, withOperand_ok]
    exact completes_writePair s p _ (DregField.pair_hi_ne_lo hp)

/-! ### Stores -/

/-- Settles O45: each is one memory write, of the low bits of the register. -/
theorem integerStoreResults : Obligations.IntegerStoreResults := by
  rintro s rd rs imm _ _ hwf rfl rfl
  exact ⟨fun hr => completes_memWrite s _ 1 _ hwf (Nat.mod_one _) hr,
    fun ha hr => completes_memWrite s _ 2 _ hwf ha hr, fun ha hr => completes_memWrite s _ 4 _ hwf ha hr⟩

/-- Settles O46: likewise, of the register or of the pair. -/
theorem floatStoreResults : Obligations.FloatStoreResults := by
  constructor
  · rintro s fd rs imm _ _ hwf rfl rfl ha hr
    exact completes_memWrite s _ 4 _ hwf ha hr
  · rintro s dd rs imm p _ _ _ hwf hp rfl rfl rfl ha hr
    rw [exec_sd_of_pair hp]
    exact completes_memWrite s _ 8 _ hwf ha hr

/-! ### Where they stop -/

section Faults
variable {s : State} {a : Word} {n : Nat} {k : Fault}

/-- The fault of the checks is the one an access meets (20_memory.md R35, R36). -/
theorem State.checkAccess_error_iff : s.checkAccess a n = .error k ↔ AccessFault s a n k := by
  unfold AccessFault
  by_cases ha : a.toNat % n = 0
  · by_cases hr : Params.InRange s.params a.toNat n
    · rw [State.checkAccess_ok.mpr ⟨ha, hr⟩]
      simp [ha, hr]
    · rw [State.checkAccess_outOfRange ha hr]
      simp [ha, hr, eq_comm]
  · rw [State.checkAccess_misaligned ha]
    simp [ha, eq_comm]

/-- A read faults in its checks alone. -/
theorem State.memRead_error_iff : s.memRead a n = .error k ↔ s.checkAccess a n = .error k := by
  unfold State.memRead
  cases s.checkAccess a n <;> simp

/-- A write faults in its checks alone. -/
theorem State.memWrite_error_iff {v : BitVec (8 * n)} :
    s.memWrite a n v = .error k ↔ s.checkAccess a n = .error k := by
  unfold State.memWrite
  cases s.checkAccess a n <;> simp

/-- A load stops at the fault its access meets. -/
theorem load_fault (h : AccessFault s a n k) {load : BitVec (8 * n) → StepOutcome} :
    withOperand (s.memRead a n) load = .fault k := by
  rw [State.memRead_error_iff.mpr (State.checkAccess_error_iff.mpr h), withOperand_error]

/-- A store stops at the fault its access meets. -/
theorem store_fault (h : AccessFault s a n k) {v : BitVec (8 * n)} {next : State → StepOutcome} :
    withOperand (s.memWrite a n v) next = .fault k := by
  rw [State.memWrite_error_iff.mpr (State.checkAccess_error_iff.mpr h), withOperand_error]

end Faults

/-- An instruction whose one D field names a pair stops at an unwritten source. -/
theorem stopsUnwritten_of_one_double {s : State} {d : RegNum} {p : Pair} {x : Source} (hp : s.pair d = .ok p)
    (hx : s.hasWritten x = false) (i : Instr) (hd : i.doubleFields = [d]) (hs : x ∈ i.sources) :
    StopsUnwritten i s :=
  stopsUnwritten_of_source (State.namesDoubles_iff.mpr (by simp [hd, hp])) hs hx

/-- Settles O47: an unwritten source stops each instruction that has it, and the shapes stop at the fault of their
one access. -/
theorem loadStoreFaults : Obligations.LoadStoreFaults := by
  intro s rd rs imm k
  refine ⟨fun h0 hw => ?base, fun h0 hw => ?stored, fun hw => ?single, fun p hp hw => ?double,
    fun h => ⟨load_fault h, load_fault h, store_fault h⟩, fun h => ⟨load_fault h, load_fault h, store_fault h⟩,
    fun h => ⟨load_fault h, load_fault h, store_fault h, store_fault h⟩,
    fun h p hp => ⟨(exec_ld_of_pair hp).trans (load_fault h), (exec_sd_of_pair hp).trans (store_fault h)⟩⟩
  case base =>
    have hbase := State.hasWritten_int_eq_false h0 hw
    have stop := stopsUnwritten_of_no_doubles hbase
    refine ⟨stop _ rfl ?_, stop _ rfl ?_, stop _ rfl ?_, stop _ rfl ?_, stop _ rfl ?_, stop _ rfl ?_,
      stop _ rfl ?_, stop _ rfl ?_, stop _ rfl ?_, stop _ rfl ?_, fun p hp =>
        ⟨stopsUnwritten_of_one_double hp hbase _ rfl ?_, stopsUnwritten_of_one_double hp hbase _ rfl ?_⟩⟩ <;>
      simp [Instr.sources]
  case stored =>
    have stop := stopsUnwritten_of_no_doubles (State.hasWritten_int_eq_false h0 hw)
    refine ⟨stop _ rfl ?_, stop _ rfl ?_, stop _ rfl ?_⟩ <;> simp [Instr.sources]
  case single => exact stopsUnwritten_of_no_doubles (x := .single rd) hw _ rfl (by simp [Instr.sources])
  case double =>
    exact stopsUnwritten_of_one_double hp (State.hasWritten_double_eq_false hp hw) _ rfl
      (by simp [Instr.sources])

end Sys2Proof.Machine

/-! The trap, the return from it, and writes from outside (60_exceptions.md R300 to R302). -/

namespace Sys2Proof.Machine

/-! ### The faults of the slot, and TRAP in vectored mode -/

/-- RFE faults exactly when nothing is saved (47_trap_rfe.md R220). -/
theorem State.returnFromTrap_fault {s : State} {k : Fault} :
    s.returnFromTrap = .fault k ↔ s.saved = none ∧ k = .rfeNoSavedState := by
  unfold State.returnFromTrap
  cases s.saved <;> simp [eq_comm]

/-- A return goes to the saved address and empties the slot (60_exceptions.md R302). -/
theorem exec_rfe_of_saved {s : State} {a : Word} (h : s.saved = some a) :
    exec .rfe s = .next { s with pc := a, saved := none } := State.returnFromTrap_next.mpr ⟨a, h, rfl⟩

/-- Settles O51. -/
theorem trapInVectoredMode : Obligations.TrapInVectoredMode :=
  fun _ _ _ hs hm => State.takeTrap_vectored hs hm

/-- Settles O52: the slot decides. -/
theorem returnFromTrapAndNesting : Obligations.ReturnFromTrapAndNesting :=
  ⟨fun _ _ ha => ⟨exec_rfe_of_saved ha, fun _ => State.takeTrap_nested ha⟩,
    fun _ hs => State.returnFromTrap_fault.mpr ⟨hs, rfl⟩⟩

/-- Settles O53: the TRAP changes pc and the slot alone, and the RFE puts both back but for the step over the
TRAP. -/
theorem returnUndoesVectoredTrap : Obligations.ReturnUndoesVectoredTrap := by
  intro s n vec hs hm
  refine ⟨_, State.takeTrap_vectored hs hm, fun here => ?_⟩
  rw [exec_rfe_of_saved rfl, ← hs]

/-! ### What a trap answers -/

/-- Everything TRAP can do: it faults where something is saved, and else goes on, the run ended only by the answer
Halt (60_exceptions.md R300, R301). -/
theorem State.takeTrap_cases (s : State) (n : Dest26) :
    (s.saved ≠ none ∧ s.takeTrap n = .fault .nestedTrap) ∨
    (s.saved = none ∧ ∃ t, s.takeTrap n = .next t ∧
      (t.status = s.status ∨
        s.handedOver.serviceAnswer n = .halt ∧ t.status = .halted n ∧ t.pc = s.pc + 4)) := by
  cases hs : s.saved with
  | some a => exact .inl ⟨nofun, State.takeTrap_nested hs⟩
  | none =>
    refine .inr ⟨rfl, ?_⟩
    cases hm : s.params.trapMode with
    | vectored vec => exact ⟨_, State.takeTrap_vectored hs hm, .inl rfl⟩
    | environment =>
      cases ha : s.handedOver.serviceAnswer n with
      | halt => exact ⟨_, State.takeTrap_halt hs hm ha, .inr ⟨rfl, rfl, rfl⟩⟩
      | resume ws =>
        obtain ⟨-, -, hstatus, -⟩ := State.applyWrites_frame s.handedOver.countServed ws
        exact ⟨_, State.takeTrap_resume hs hm ha, .inl hstatus⟩

/-- What a TRAP that goes on makes of the run status. -/
theorem State.takeTrap_status {s t : State} {n : Dest26} (h : s.takeTrap n = .next t) :
    t.status = s.status ∨
      s.handedOver.serviceAnswer n = .halt ∧ t.status = .halted n ∧ t.pc = s.pc + 4 := by
  rcases s.takeTrap_cases n with ⟨-, hfault⟩ | ⟨-, u, hnext, hu⟩
  · cases hfault.symm.trans h
  · cases hnext.symm.trans h
    exact hu

/-- When TRAP faults, in either mode. -/
theorem State.takeTrap_fault {s : State} {n : Dest26} {k : Fault} (h : s.takeTrap n = .fault k) :
    s.saved ≠ none ∧ k = .nestedTrap := by
  rcases s.takeTrap_cases n with ⟨hs, hfault⟩ | ⟨-, u, hnext, -⟩
  · cases hfault.symm.trans h
    exact ⟨hs, rfl⟩
  · cases hnext.symm.trans h

/-- Settles O54: the invariant has nothing saved there, which both faults turn on. -/
theorem environmentModeNeverReturnsByRfe : Obligations.EnvironmentModeNeverReturnsByRfe := by
  intro s h hrun hm
  have hs := h.environment_unsaved hrun hm
  refine ⟨State.returnFromTrap_fault.mpr ⟨hs, rfl⟩, fun n hnested => ?_⟩
  obtain ⟨hsaved, -⟩ := State.takeTrap_fault hnested
  exact hsaved hs

/-! ### Writes from outside -/

/-- A byte read after one was written. -/
theorem Memory.read_write (m : Memory) (a x : Nat) (b : Byte) (h : m.wf = true) :
    (m.write a b).read x = if x = a then b else m.read x := by
  split
  next e => rw [e, Memory.read_write_same _ _ _ h]
  next e => exact Memory.read_write_other _ _ e

/-- A byte write from outside reaches memory only where there is some (60_exceptions.md R301). -/
theorem State.applyWrite_byte (s : State) (a : Word) (b : Byte) :
    s.applyWrite (.byte a b) =
      { s with mem := if Params.InRange s.params a.toNat 1 then s.mem.write a.toNat b else s.mem } := by
  rw [State.applyWrite]
  split <;> rfl

/-- Settles O50: each write is an update of one named part, and a list of them keeps what each of them keeps. -/
theorem serviceWritesStayInBounds : Obligations.ServiceWritesStayInBounds := by
  intro s hwf
  refine ⟨fun i v => ?intReg, fun i v => ⟨s.writesF_writeF i v, rfl, rfl, rfl, rfl⟩, fun _ => rfl, fun _ => rfl,
    fun a b x => ?byte, fun a b => ?byteFrame, fun ws => ?list⟩
  case intReg =>
    exact ⟨s.writesR_writeR i v, s.writeR_mem i v, s.writeR_f i v, s.writeR_fpsr i v, s.writeR_special i v⟩
  case byte =>
    rw [State.applyWrite_byte]
    by_cases hr : Params.InRange s.params a.toNat 1
    · simp only [if_pos hr, and_iff_left hr]
      exact Memory.read_write _ _ _ _ hwf
    · rw [if_neg hr, if_neg fun h => hr h.2]
  case byteFrame =>
    rw [State.applyWrite_byte]
    exact ⟨rfl, rfl, rfl, rfl⟩
  case list =>
    obtain ⟨hpc, hsaved, hstatus, hparams, hmod, -⟩ := s.applyWrites_frame ws
    exact ⟨hpc, hsaved, hstatus, hparams, hmod, State.readR_zero _⟩

/-! ### TRAP in environment mode -/

/-- A write from outside does not look at what handing over and counting change. -/
theorem State.applyWrite_handedOver (s : State) (w : HostWrite) :
    s.handedOver.countServed.applyWrite w = (s.applyWrite w).handedOver.countServed := by
  cases w with
  | intReg i v =>
    simp only [State.applyWrite, State.writeR]
    split <;> rfl
  | fpReg | fpsr | special => rfl
  | byte a b =>
    rw [State.applyWrite_byte, State.applyWrite_byte]
    rfl

theorem State.applyWrites_handedOver (s : State) (ws : List HostWrite) :
    s.handedOver.countServed.applyWrites ws = (s.applyWrites ws).handedOver.countServed := by
  induction ws generalizing s with
  | nil => rfl
  | cons w ws ih => rw [State.applyWrites, State.applyWrite_handedOver, ih, State.applyWrites]

/-- A TRAP answered Resume leaves the service's writes to the state before it, the count and the step over the
TRAP (60_exceptions.md R301). -/
theorem exec_trap_resume {s : State} {n : Dest26} {ws : List HostWrite} (hs : s.saved = none)
    (hm : s.params.trapMode = .environment) (ha : s.handedOver.serviceAnswer n = .resume ws) :
    exec (.trap n) s =
      .next { s.applyWrites ws with pc := s.pc + 4, saved := none, served := s.served + 1 } := by
  obtain ⟨-, -, -, -, -, hserved, -⟩ := s.applyWrites_frame ws
  rw [exec, execTrap, State.takeTrap_resume hs hm ha, State.applyWrites_handedOver, ← hserved]
  rfl

/-- Settles O49: the two answers by what they leave, and a script by the line it has reached. -/
theorem trapInEnvironmentMode : Obligations.TrapInEnvironmentMode := by
  refine ⟨fun s n hs hm => ⟨fun ha => State.takeTrap_halt hs hm ha, fun ws ha => ?resume⟩,
    fun s n hsvc => State.serviceAnswer_script (s := s.handedOver) hsvc n,
    fun s n first always hsvc => ?script⟩
  case resume =>
    obtain ⟨-, -, hstatus, hparams, hmod, -, hdraws, -⟩ := s.applyWrites_frame ws
    exact ⟨_, exec_trap_resume hs hm ha, rfl, rfl, hstatus, rfl, hparams, hmod, hdraws, rfl, rfl, rfl, rfl, rfl⟩
  case script =>
    have hanswer := State.serviceAnswer_script (s := s.handedOver) hsvc n
    rw [State.handedOver_served] at hanswer
    refine ⟨fun a ha => ?_, fun hspent => ?_⟩
    · rw [hanswer, ha, Option.getD_some]
    · rw [hanswer, List.getElem?_eq_none hspent, Option.getD_none]

end Sys2Proof.Machine

/-! The step and the run: what a step can do, how a run ends, and that the invariant holds of every state reached
(60_exceptions.md R303, R304; 70_reset_and_hazards.md R352 to R362). -/

namespace Sys2Proof.Machine

/-! ### The step -/

/-- Settles O7: the step is the checked instruction, which stops or runs. -/
theorem stepRunsTheDecodedInstruction : Obligations.StepRunsTheDecodedInstruction := by
  intro s w i hs hf hd
  rw [step_of_decode hs hf hd]
  exact ⟨execChecked_runs, execChecked_stops⟩

/-- A step faults in the fetch, in the decoder or in the instruction (60_exceptions.md R305). -/
theorem step_fault {s : State} {k : Fault} (h : step s = .fault k) :
    s.fetch = .error k ∨
    (∃ w e, s.fetch = .ok w ∧ decode w = .error e ∧ k = .reservedInstruction) ∨
    ∃ w i, s.fetch = .ok w ∧ decode w = .ok i ∧ s.stopsUnwritten i = false ∧ exec i s = .fault k := by
  cases hs : s.status with
  | halted | faulted => simp [step, hs] at h
  | running =>
    cases hf : s.fetch with
    | error e =>
      rw [step_of_fetch_error hs hf] at h
      exact .inl (congrArg Except.error (Host.Outcome.fault.inj h))
    | ok w =>
      cases hd : decode w with
      | error e =>
        rw [step_of_decode_error hs hf hd] at h
        exact .inr (.inl ⟨w, e, rfl, hd, (Host.Outcome.fault.inj h).symm⟩)
      | ok i =>
        rw [step_of_decode hs hf hd] at h
        rcases execChecked_cases i s with ⟨-, hstop⟩ | ⟨hruns, hrun⟩
        · cases hstop.symm.trans h
        · exact .inr (.inr ⟨w, i, rfl, hd, hruns, hrun.symm.trans h⟩)

/-! ### The end of a run -/

/-- No step is taken from a final state (70_reset_and_hazards.md R362). -/
theorem step_of_final {s : State} (h : s.Final) : step s = .next s := by
  cases hs : s.status with
  | running => exact absurd hs h
  | halted | faulted => simp only [step, hs]

theorem runStep_of_next {s t : State} (h : step s = .next t) : runStep s = t := by
  rw [runStep, h]

theorem runStep_of_fault {s : State} {k : Fault} (h : step s = .fault k) : runStep s = s.afterFault k.kind := by
  rw [runStep, h]

theorem runStep_of_final {s : State} (h : s.Final) : runStep s = s := runStep_of_next (step_of_final h)

theorem State.afterFault_final (s : State) (k : FaultKind) : (s.afterFault k).Final := nofun

/-- Settles O11: either way the run is left in the state after a fault, which is final. -/
theorem faultStopsTheRunUnchanged : Obligations.FaultStopsTheRunUnchanged := by
  refine ⟨fun s k h => ?fault, fun s w i hs hf hd hstop => ?unwritten⟩
  case fault =>
    have hrun := runStep_of_fault h
    exact ⟨hrun, by rw [hrun, runStep_of_final (s.afterFault_final _)]⟩
  case unwritten =>
    have hrun := runStep_of_next ((step_of_decode hs hf hd).trans (execChecked_stops hstop))
    exact ⟨hrun, by rw [hrun, runStep_of_final (s.afterFault_final _)]⟩

/-- Only a TRAP answered Halt changes the run status (70_reset_and_hazards.md R362). -/
theorem exec_status {i : Instr} {s t : State} (h : exec i s = .next t) :
    t.status = s.status ∨
      ∃ n, i = .trap n ∧ s.handedOver.serviceAnswer n = .halt ∧ t.status = .halted n ∧ t.pc = s.pc + 4 := by
  by_cases htrap : ∃ n, i = .trap n
  · obtain ⟨n, rfl⟩ := htrap
    exact (State.takeTrap_status h).imp_right fun hhalt => ⟨n, rfl, hhalt⟩
  · obtain ⟨hstatus, -⟩ := (exec_effect h).status_served_eq fun n hn => htrap ⟨n, hn⟩
    exact .inl hstatus

/-- Everything a step that goes on can make of the run status: it stays, a TRAP is answered Halt, or the check of
the operand reads ends the run (70_reset_and_hazards.md R362, 10_state.md R14). -/
theorem step_status {s t : State} (hs : s.status = .running) (h : step s = .next t) :
    t.status = .running ∨
    (∃ w n, s.fetch = .ok w ∧ decode w = .ok (.trap n) ∧ s.handedOver.serviceAnswer n = .halt ∧
      t.status = .halted n ∧ t.pc = s.pc + 4) ∨
    ∃ w i, s.fetch = .ok w ∧ decode w = .ok i ∧ s.stopsUnwritten i = true ∧ t = s.afterFault .unwrittenRead := by
  rcases step_next h with rfl | ⟨w, i, hf, hd, hexec⟩
  · exact .inl hs
  · rcases execChecked_cases i s with ⟨hstops, hstop⟩ | ⟨-, hrun⟩
    · exact .inr (.inr ⟨w, i, hf, hd, hstops, (Host.Outcome.next.inj (hstop.symm.trans hexec)).symm⟩)
    · rcases exec_status (hrun.symm.trans hexec) with hstatus | ⟨n, rfl, hhalt⟩
      · exact .inl (hstatus.trans hs)
      · exact .inr (.inl ⟨w, n, hf, hd, hhalt⟩)

/-- Settles O12: the status changes as the step can change it, and a final state steps to itself. -/
theorem runStatusAndFinalStates : Obligations.RunStatusAndFinalStates := by
  refine ⟨fun _ => rfl, fun s n hs hm ha => ⟨_, State.takeTrap_halt hs hm ha, rfl, rfl⟩,
    fun s t n hs h hn => ?halted, fun s k h => ?fault, fun s h => ⟨step_of_final h, runStep_of_final h⟩⟩
  case halted =>
    rcases step_status hs h with hrun | ⟨w, m, hf, hd, ha, hm, hpc⟩ | ⟨w, i, -, -, -, rfl⟩
    · cases hrun.symm.trans hn
    · cases hm.symm.trans hn
      exact ⟨⟨w, hf, hd⟩, ha, hpc⟩
    · cases hn
  case fault =>
    rw [runStep_of_fault h]
    exact ⟨s.afterFault_status _, s.afterFault_pc _⟩

/-! ### What raises a fault -/

/-- A D field that names no pair (10_state.md R18). -/
theorem mayRaise_of_pair_error {i : Instr} {s : State} {d : RegNum} {k : Fault} (hi : i.doubleFields ≠ [])
    (h : s.pair d = .error k) : i.mayRaise k = true := by
  rw [DregField.pair_error h]
  simpa [Instr.mayRaise] using hi

/-- A pair, and what follows it. -/
theorem mayRaise_of_withPair {i : Instr} {s : State} {d : RegNum} {k : Fault} {f : Pair → StepOutcome}
    (hi : i.doubleFields ≠ []) (hf : ∀ p, f p = .fault k → i.mayRaise k = true)
    (h : withOperand (s.pair d) f = .fault k) : i.mayRaise k = true := by
  rcases withOperand_fault.mp h with he | ⟨p, -, hp⟩
  · exact mayRaise_of_pair_error hi he
  · exact hf p hp

/-- A pair, and an update of the state after it. -/
theorem mayRaise_of_lastPair {i : Instr} {s : State} {d : RegNum} {k : Fault} {u : Pair → State}
    (hi : i.doubleFields ≠ []) (h : withOperand (s.pair d) (fun p => .next (u p)) = .fault k) :
    i.mayRaise k = true :=
  mayRaise_of_withPair hi (fun _ hp => by cases hp) h

/-- A fault of an access: every address is a multiple of 1 (20_memory.md R35, R36). -/
theorem mayRaise_of_checkAccess_error {i : Instr} {s : State} {a : Word} {n : Nat} {k : Fault}
    (hi : i.isMemory = true) (hn : n = 1 ∨ i.mayRaise .dataMisaligned = true)
    (h : s.checkAccess a n = .error k) : i.mayRaise k = true := by
  rcases State.checkAccess_error_iff.mp h with ⟨ha, rfl⟩ | ⟨-, -, rfl⟩
  · refine hn.resolve_left fun h1 => ha ?_
    rw [h1, Nat.mod_one]
  · exact hi

/-- A load, and the write of the register after it. -/
theorem mayRaise_of_load {i : Instr} {s : State} {a : Word} {n : Nat} {k : Fault} {u : BitVec (8 * n) → State}
    (hi : i.isMemory = true) (hn : n = 1 ∨ i.mayRaise .dataMisaligned = true)
    (h : withOperand (s.memRead a n) (fun v => .next (u v)) = .fault k) : i.mayRaise k = true := by
  rcases withOperand_fault.mp h with he | ⟨v, -, hv⟩
  · exact mayRaise_of_checkAccess_error hi hn (State.memRead_error_iff.mp he)
  · cases hv

/-- A store, and the step over it. -/
theorem mayRaise_of_store {i : Instr} {s : State} {a : Word} {n : Nat} {k : Fault} {v : BitVec (8 * n)}
    (hi : i.isMemory = true) (hn : n = 1 ∨ i.mayRaise .dataMisaligned = true)
    (h : withOperand (s.memWrite a n v) (fun u => .next u.advance) = .fault k) : i.mayRaise k = true := by
  rcases withOperand_fault.mp h with he | ⟨u, -, hu⟩
  · exact mayRaise_of_checkAccess_error hi hn (State.memWrite_error_iff.mp he)
  · cases hu

/-- A division faults on a zero divisor alone (43_int_muldiv.md R150). -/
theorem divideByZero_of_regRegDivide_fault {op : Word → Word → Word} {rd rs rc : RegNum} {s : State} {k : Fault}
    (h : regRegDivide op rd rs rc s = .fault k) : k = .divideByZero := by
  unfold regRegDivide at h
  split at h <;> cases h
  rfl

/-- A branch does not fault. -/
theorem branch_not_fault {taken : Bool} {imm : Imm16} {s : State} {k : Fault} : branch taken imm s ≠ .fault k := by
  cases taken <;> exact nofun

/-- An instruction raises only what the table lists for it (60_exceptions.md R304). -/
theorem exec_mayRaise {i : Instr} {s : State} {k : Fault} (h : exec i s = .fault k) : i.mayRaise k = true := by
  unfold exec at h
  cases i with
  | sll | srl | sra | add | addu | sub | subu | and | or | xor | seq | sne | slt | sgt | sle | sge
  | mult | multu | addi | addui | subi | subui | andi | ori | xori | lhi | slli | srli | srai | seqi | snei | slti
  | sgti | slei | sgei | movi2s | movs2i | movf | movfp2i | movi2fp | addf | subf | multf | divf | cvtf2i | cvti2f
  | eqf | nef | ltf | gtf | lef | gef | j | jal | jr | jalr => cases h
  | div | divu => exact divideByZero_of_regRegDivide_fault h ▸ rfl
  | beqz | bnez | bfpt | bfpf => exact absurd h branch_not_fault
  | rfe =>
    obtain ⟨-, rfl⟩ := State.returnFromTrap_fault.mp h
    rfl
  | trap n =>
    obtain ⟨-, rfl⟩ := State.takeTrap_fault h
    rfl
  | cvtf2d | cvti2d | cvtd2f | cvtd2i => exact mayRaise_of_lastPair nofun h
  | movd | eqd | ned | ltd | gtd | led | ged =>
    exact mayRaise_of_withPair nofun (fun _ => mayRaise_of_lastPair nofun) h
  | addd | subd | multd | divd =>
    exact mayRaise_of_withPair nofun (fun _ => mayRaise_of_withPair nofun fun _ =>
      mayRaise_of_lastPair nofun) h
  | lb | lbu => exact mayRaise_of_load rfl (.inl rfl) h
  | lh | lhu | lw | lf => exact mayRaise_of_load rfl (.inr rfl) h
  | ld => exact mayRaise_of_withPair nofun (fun _ => mayRaise_of_load rfl (.inr rfl)) h
  | sb => exact mayRaise_of_store rfl (.inl rfl) h
  | sh | sw | sf => exact mayRaise_of_store rfl (.inr rfl) h
  | sd => exact mayRaise_of_withPair nofun (fun _ => mayRaise_of_store rfl (.inr rfl)) h

/-- Only a TRAP with something saved nests (60_exceptions.md R300 (1)). -/
theorem saved_of_exec_nestedTrap {i : Instr} {s : State} (h : exec i s = .fault .nestedTrap) : s.saved ≠ none := by
  have hi := exec_mayRaise h
  cases i with
  | trap n =>
    obtain ⟨hs, -⟩ := State.takeTrap_fault h
    exact hs
  | _ => cases hi

/-- Where something is saved while the program runs, traps are vectored (60_exceptions.md R302). -/
theorem State.Inv.vectored_of_saved {s : State} (h : s.Inv) (hrun : s.status = .running) (hs : s.saved ≠ none) :
    ∃ vec, s.params.trapMode = .vectored vec := by
  cases hm : s.params.trapMode with
  | vectored vec => exact ⟨vec, rfl⟩
  | environment => exact absurd (h.environment_unsaved hrun hm) hs

/-- An instruction with a source reads a register. -/
theorem readsRegister_of_source {i : Instr} {x : Source} (h : x ∈ i.sources) : i.readsRegister = true := by
  cases i with
  | j | jal | lhi | rfe | trap => cases h
  | _ => rfl

/-- Settles O60: the faults of an instruction by its shape, and those of a step and the stop at an unwritten
register by what the step can do. -/
theorem faultsAreRaisedAsListed : Obligations.FaultsAreRaisedAsListed := by
  refine ⟨fun i s k h => ⟨exec_mayRaise h, ?nested⟩, fun i s h => ?reads, fun s k => step_fault,
    fun s t k a hs h hk => ?unwritten⟩
  case nested =>
    rintro rfl hinv hrun
    exact hinv.vectored_of_saved hrun (saved_of_exec_nestedTrap h)
  case reads =>
    obtain ⟨-, hreads⟩ := State.stopsUnwritten_iff.mp h
    obtain ⟨-, x, hx, -⟩ := State.readsUnwritten_iff.mp hreads
    exact readsRegister_of_source hx
  case unwritten =>
    rcases step_status hs h with hrun | ⟨w, n, -, -, -, hn, -⟩ | ⟨w, i, hf, hd, hstop, rfl⟩
    · cases hrun.symm.trans hk
    · cases hn.symm.trans hk
    · cases hk
      exact ⟨rfl, rfl, w, i, hf, hd, hstop⟩

/-! ### A program the host places -/

/-- The byte at offset `k` of a word that the host has placed at pc. -/
theorem State.withFetchWord_read {s : State} (w : Word) (hwf : s.mem.wf = true) :
    ∀ k < 4, (s.withFetchWord 32 w.toNat).mem.read (s.pc.toNat + k) = byteOfWord w k := by
  have hw : BitVec.ofNat 32 (w.toNat % 2 ^ 32) = w := by
    rw [Nat.mod_eq_of_lt w.isLt, BitVec.ofNat_toNat, BitVec.setWidth_eq]
  have hwf0 := Memory.wf_write _ s.pc.toNat (byteOfWord w 0) hwf
  have hwf1 := Memory.wf_write _ (s.pc.toNat + 1) (byteOfWord w 1) hwf0
  have hwf2 := Memory.wf_write _ (s.pc.toNat + 2) (byteOfWord w 2) hwf1
  intro k hk
  simp only [State.withFetchWord, hw, Memory.read_write, hwf, hwf0, hwf1, hwf2]
  interval_cases k <;> simp

/-- The host's bytes count as ones no store of the run has written (20_memory.md R45). -/
theorem State.withFetchWord_unmodified (s : State) (n w : Nat) :
    ∀ k < 4, s.pc.toNat + k ∉ (s.withFetchWord n w).modified := by
  intro k hk hmem
  simp only [State.withFetchWord, List.mem_filter, decide_eq_true_eq] at hmem
  omega

/-- A word placed at an aligned pc inside memory is fetched. -/
theorem State.fetch_withFetchWord {s : State} (w : Word) (hwf : s.mem.wf = true) (ha : s.pc.toNat % 4 = 0)
    (hr : Params.InRange s.params s.pc.toNat 4) : (s.withFetchWord 32 w.toNat).fetch = .ok w := by
  have hbyte := State.withFetchWord_read w hwf
  refine State.fetch_ok.mpr ⟨⟨ha, hr, State.fetch_unmodified (.inr (s.withFetchWord_unmodified _ _))⟩, ?_⟩
  calc wordOfBytes _ _ _ _
      = wordOfBytes (byteOfWord w 0) (byteOfWord w 1) (byteOfWord w 2) (byteOfWord w 3) := by
        rw [← hbyte 0 (by decide), ← hbyte 1 (by decide), ← hbyte 2 (by decide), ← hbyte 3 (by decide)]
        rfl
    _ = w := wordOfBytes_byteOfWord w

/-- Settles O9: the placed word is fetched, and it decodes to the instruction. -/
theorem placedInstructionRunsNext : Obligations.PlacedInstructionRunsNext :=
  fun _ i hwf ha hr => step_of_decode rfl (State.fetch_withFetchWord _ hwf ha hr) (decode_encode i)

/-! ### Every state a launch reaches -/

/-- Writes from outside keep the invariant (70_reset_and_hazards.md R352, R353). -/
theorem State.Inv.applyWrites {s : State} (h : s.Inv) (ws : List HostWrite) : (s.applyWrites ws).Inv := by
  obtain ⟨-, hsaved, hstatus, hp, hmod, -, -, h0⟩ := s.applyWrites_frame ws
  obtain ⟨hwf, hexists⟩ := s.applyWrites_memory ws h.memory_canonical h.memory_exists
  constructor
  · simpa only [hp] using h.params
  · exact hwf
  · simpa only [hp] using hexists
  · simpa only [hmod] using h.modified_rising
  · simpa only [hmod, hp] using h.modified_exists
  · simpa only [h0] using h.r0_constant
  · simpa only [hsaved] using h.resume_aligned
  · simpa only [hstatus, hp, hsaved] using h.environment_unsaved

/-- What every step keeps holds of every state reached. -/
theorem State.Inv.reaches {s t : State} (h : s.Inv) (hr : Reaches s t) : t.Inv := by
  induction hr with
  | refl => exact h
  | tail _ hstep ih => exact stepKeepsTheInvariant _ _ ih hstep

/-- Settles O57: reset meets the invariant, what the host places keeps it, and so does every step. -/
theorem everyReachedStateMeetsTheInvariant : Obligations.EveryReachedStateMeetsTheInvariant :=
  fun p placed hp _ hr => ((State.resetWith_inv p hp).applyWrites placed).reaches hr

end Sys2Proof.Machine
